-- ==== Sys2Proof/Word.lean ====
section
/-! DEFINITION. The two bit-vector types of the core: the 32-bit register word (R9, REG_WIDTH and ADDR_WIDTH) and
the byte of system memory (R45). -/

namespace Sys2Proof

/-- A register, a command word or a system-memory address: 32 bits (R9). -/
abbrev Word := BitVec 32

/-- A byte of system memory or an 8-bit colour channel (R13, R45). -/
abbrev Byte := BitVec 8

end Sys2Proof
end

