-- ==== Sys2Proof/Config.lean ====
section
/-! DEFINITION. What is fixed for the machine: the parameters of 00_scope.md R8 and R9, and the free values, which
the spec leaves open. A free value has no body, so no proof can see what it is. -/

namespace Sys2Proof

/-- The order of the bytes of a 16- or 32-bit block field in memory (R62). -/
inductive ByteOrder where
  | little
  | big
deriving DecidableEq, Repr

namespace Config

/-- BLOCK_BYTE_ORDER (R9, R62). PRESUMED, log entry 10: the spec takes it from general knowledge. Unsafe. -/
def blockByteOrder : ByteOrder := .little

/-- ID_VALUE (R9, R22). -/
def idValue : Word := 0x45465401

/-- TILE_DIM in pixels (R8). -/
def tileDim : Nat := 512

/-- BLOCK_DIM in pixels (R8). -/
def blockDim : Nat := 4

/-- BLOCK_BYTES (R8). -/
def blockBytes : Nat := 8

/-- BLOCKS_PER_TILE_ROW (R8). -/
def blocksPerRow : Nat := 128

/-- CTILE_BYTES, the size of a compressed tile (R8). -/
def ctileBytes : Nat := 131072

/-- PIXEL_BYTES (R8). -/
def pixelBytes : Nat := 4

/-- DTILE_BYTES, the size of a decoded tile (R8). -/
def dtileBytes : Nat := 1048576

/-- ALPHA_VALUE (R8). -/
def alphaValue : Byte := 255

/-- MAX_DIM, the largest accepted width or height (R9). -/
def maxDim : Nat := 8192

/-- REG_WINDOW, the size of the register window in bytes (R9, R21). -/
def regWindow : Nat := 256

/-- The first byte address beyond system memory, `2^ADDR_WIDTH` (R9, R45). -/
def addrSpace : Nat := 4294967296

/-- FREE VALUE (log entry 4): what system memory holds at an address that nothing has written since power-on
(R48, U23 "any value"). Safe: nothing constrains it. -/
opaque powerOnByte : Nat → Byte

/-- FREE VALUE (log entry 15): REG_BASE, the platform's address of the register window on the host bus (R71, R251, U20
`regBase`). Safe: nothing constrains it. -/
opaque regBase : Nat

/-- FREE VALUE (log entries 5 and 6): the draw with the given number, for a host read of a destination byte while
BUSY (R77) and for a destination byte after a soft reset while BUSY (R273). Safe: nothing constrains it. -/
opaque freeByte : Nat → Byte

/-- FREE VALUE (log entry 2): whether the engine's complete step comes before the host's next step, at the draw with
the given number (R210, R212). Safe: nothing constrains it. -/
opaque engineMoves : Nat → Bool

end Config

end Sys2Proof
end

