-- ==== Sys2Proof/Syntax.lean ====
section
/-! DEFINITION. The instructions: the three commands of format CMD (R90 to R92) and the host-bus operations of format
BUSOP (R106), one constructor for each mnemonic of spec/opcode_table.json; a raw transaction on the register
window, which decodes to one of them or to a bus error (R200); and a bus access by its address (R251). -/

namespace Sys2Proof

/-- CHORD, the compositor's channel order (R91). -/
inductive ChannelOrder where
  | rgba
  | bgra
deriving DecidableEq, Repr

/-- The three legal opcodes (R92). -/
inductive Op where
  | decodeTile
  | compose
  | decodeCompose
deriving DecidableEq, Repr

/-- What a legal command word says (R90, R208). For DECODE_TILE the order is RGBA and the swap false (R208). -/
structure Command where
  op    : Op
  order : ChannelOrder
  swap  : Bool
deriving DecidableEq, Repr

/-- An instruction: a command, or a well-formed operation on the register window. `v` is the value a write carries,
`offset` the byte offset in the window where the row leaves it open. -/
inductive Instr where
  | decodeTile
  | compose (order : ChannelOrder) (swap : Bool)
  | decodeCompose (order : ChannelOrder) (swap : Bool)
  | rd (offset : BitVec 8)
  | wrId (v : Word)
  | wrCtrl (v : Word)
  | wrStatus (v : Word)
  | wrCmd (v : Word)
  | wrSrcAddr (v : Word)
  | wrSrcLen (v : Word)
  | wrDstAddr (v : Word)
  | wrDstLen (v : Word)
  | wrWidth (v : Word)
  | wrHeight (v : Word)
  | wrTileCount (v : Word)
  | wrTileIndex (v : Word)
  | wrOutWidth (v : Word)
  | wrOutHeight (v : Word)
  | wrReserved (offset : BitVec 8) (v : Word)
deriving DecidableEq, Repr

/-- A host transaction on the register window as it stands on the bus: its direction, its width in bytes, its byte
offset in the window and, for a write, its value (R106, R200). -/
structure Transaction where
  write  : Bool
  width  : Nat
  offset : BitVec 8
  value  : Word
deriving DecidableEq, Repr

/-- A host access on the bus by its address (R71, R251): the register window starts at Config.regBase there. It is no
access to system memory, which is a space of its own (R60). -/
structure BusAccess where
  write   : Bool
  width   : Nat
  address : Nat
  value   : Word
deriving DecidableEq, Repr

/-- An encoded instruction in one of the two formats of spec/opcode_table.json: a command word (R90), or a 9-bit
descriptor `{W, OFFSET}` with the value a write carries (R106). -/
inductive Encoding where
  | command (word : Word)
  | busop (descriptor : BitVec 9) (value : Word)
deriving DecidableEq, Repr

end Sys2Proof
end

