-- ==== Sys2Proof/WellFormed.lean ====
section
/-! DEFINITION. Which instructions the encodings of spec/30_encoding.md can express: an offset operand is aligned
(R200), and the offset of WR.RESERVED is a reserved one (R42, R106). -/

namespace Sys2Proof

/-- `OFFSET[1:0] = 0` (R106, R200). -/
def aligned (offset : BitVec 8) : Bool := offset.toNat % 4 == 0

/-- Offsets 0x38 to 0xFC, aligned (R42). -/
def reservedOffset (offset : BitVec 8) : Bool := aligned offset && decide (0x38 ≤ offset.toNat)

/-- An instruction that some encoding stands for. -/
def Instr.wellFormed : Instr → Bool
  | .decodeTile => true
  | .compose _ _ => true
  | .decodeCompose _ _ => true
  | .rd offset => aligned offset
  | .wrId _ => true
  | .wrCtrl _ => true
  | .wrStatus _ => true
  | .wrCmd _ => true
  | .wrSrcAddr _ => true
  | .wrSrcLen _ => true
  | .wrDstAddr _ => true
  | .wrDstLen _ => true
  | .wrWidth _ => true
  | .wrHeight _ => true
  | .wrTileCount _ => true
  | .wrTileIndex _ => true
  | .wrOutWidth _ => true
  | .wrOutHeight _ => true
  | .wrReserved offset _ => reservedOffset offset

/-- A command as R208 records it: for DECODE_TILE the order is RGBA and the swap false. -/
def Command.wellFormed (c : Command) : Bool :=
  match c.op with
  | .decodeTile => c.order == .rgba && !c.swap
  | .compose => true
  | .decodeCompose => true

end Sys2Proof
end

