-- ==== Sys2Proof/Decode.lean ====
section
/-! DEFINITION. Decoding: a command word (R90 to R93), a 9-bit bus descriptor (R106) and a raw transaction on the
register window (R200) to an instruction or a rejection by name; and the encoder, from the same tables. -/

namespace Sys2Proof

/-- Why a command word is illegal (R93). -/
inductive IllegalWord where
  /-- OPCODE is 0x0 or 0x4 to 0xF (R93 a, R231 detail 1). -/
  | reservedOpcode
  /-- A reserved bit of the command word is 1 (R93 b, R231 detail 2). -/
  | reservedBits
deriving DecidableEq, Repr

/-- Why an encoding stands for no instruction. -/
inductive DecodeError where
  /-- The transaction is not 4 bytes wide (R200): a bus error. -/
  | narrowAccess
  /-- `OFFSET[1:0]` is not 0 (R106, R200): a bus error. -/
  | misalignedOffset
  /-- The command word is illegal (R93): ILLEGAL_COMMAND where it is written to CMD. -/
  | illegalWord (e : IllegalWord)
  /-- The number has a bit set above the format's last one (log entry 16). -/
  | bitsAboveFormat
deriving DecidableEq, Repr

/-! ### The command word (R90) -/

/-- OPCODE, bits 3:0. -/
def opcodeField (w : Word) : BitVec 4 := w.extractLsb' 0 4

/-- CHORD, bit 4: 0 is RGBA, 1 is BGRA (R90, R91). -/
def chordField (w : Word) : ChannelOrder := if w.getLsbD 4 then .bgra else .rgba

/-- SWAP, bit 5 (R90). -/
def swapField (w : Word) : Bool := w.getLsbD 5

/-- The opcode map of R92; the other thirteen values are reserved. -/
def opOfField (f : BitVec 4) : Option Op :=
  if f = 0x1 then some .decodeTile
  else if f = 0x2 then some .compose
  else if f = 0x3 then some .decodeCompose
  else none

/-- The field that must be 0: `v[31:4]` for DECODE_TILE, `v[31:6]` for the others (R91, R93). -/
def reservedField (op : Op) (w : Word) : Word :=
  match op with
  | .decodeTile => w >>> 4
  | .compose => w >>> 6
  | .decodeCompose => w >>> 6

/-- The command a word stands for, or why it is illegal: the opcode first, then the reserved bits (R93, R238). -/
def decodeCommandWord (w : Word) : Except IllegalWord Command :=
  match opOfField (opcodeField w) with
  | none => .error .reservedOpcode
  | some op =>
    if reservedField op w = 0 then .ok { op := op, order := chordField w, swap := swapField w }
    else .error .reservedBits

/-- The instruction of a command. -/
def Command.instr (c : Command) : Instr :=
  match c.op with
  | .decodeTile => .decodeTile
  | .compose => .compose c.order c.swap
  | .decodeCompose => .decodeCompose c.order c.swap

/-- A command word's instruction. -/
def decodeCommand (w : Word) : Except DecodeError Instr :=
  match decodeCommandWord w with
  | .ok c => .ok c.instr
  | .error e => .error (.illegalWord e)

/-! ### The bus descriptor (R106) -/

/-- One BUSOP row of spec/opcode_table.json: a descriptor `d` selects it when `d &&& mask = pattern`. -/
structure BusRow where
  mask    : BitVec 9
  pattern : BitVec 9
  make    : BitVec 8 → Word → Instr

/-- The BUSOP rows of spec/opcode_table.json, in its order. -/
def busTable : List BusRow :=
  [ ⟨0x103, 0x000, fun o _ => .rd o⟩,
    ⟨0x1FF, 0x100, fun _ v => .wrId v⟩,
    ⟨0x1FF, 0x104, fun _ v => .wrCtrl v⟩,
    ⟨0x1FF, 0x108, fun _ v => .wrStatus v⟩,
    ⟨0x1FF, 0x10C, fun _ v => .wrCmd v⟩,
    ⟨0x1FF, 0x110, fun _ v => .wrSrcAddr v⟩,
    ⟨0x1FF, 0x114, fun _ v => .wrSrcLen v⟩,
    ⟨0x1FF, 0x118, fun _ v => .wrDstAddr v⟩,
    ⟨0x1FF, 0x11C, fun _ v => .wrDstLen v⟩,
    ⟨0x1FF, 0x120, fun _ v => .wrWidth v⟩,
    ⟨0x1FF, 0x124, fun _ v => .wrHeight v⟩,
    ⟨0x1FF, 0x128, fun _ v => .wrTileCount v⟩,
    ⟨0x1FF, 0x12C, fun _ v => .wrTileIndex v⟩,
    ⟨0x1FF, 0x130, fun _ v => .wrOutWidth v⟩,
    ⟨0x1FF, 0x134, fun _ v => .wrOutHeight v⟩,
    ⟨0x1FB, 0x138, fun o v => .wrReserved o v⟩,
    ⟨0x1C3, 0x140, fun o v => .wrReserved o v⟩,
    ⟨0x183, 0x180, fun o v => .wrReserved o v⟩ ]

/-- Whether a descriptor selects a row. -/
def BusRow.selects (r : BusRow) (d : BitVec 9) : Bool := d &&& r.mask == r.pattern

/-- The operation a descriptor selects (R106). Only a misaligned offset selects none. -/
def decodeBusop (d : BitVec 9) (v : Word) : Except DecodeError Instr :=
  match busTable.find? (·.selects d) with
  | some r => .ok (r.make (d.extractLsb' 0 8) v)
  | none => .error .misalignedOffset

/-- `{W, OFFSET[7:0]}` (R106). -/
def Transaction.descriptor (t : Transaction) : BitVec 9 := BitVec.ofBool t.write ++ t.offset

/-- A transaction's operation, or the reason of its bus error (R106, R200). -/
def decodeTransaction (t : Transaction) : Except DecodeError Instr :=
  if t.width = 4 then decodeBusop t.descriptor t.value else .error .narrowAccess

/-- The transaction a bus access makes on the register window, by the address of its first byte; none where that address
is not in the window (R71, R251; log entry 15). -/
def BusAccess.transaction (b : BusAccess) : Option Transaction :=
  if Config.regBase ≤ b.address ∧ b.address < Config.regBase + Config.regWindow then
    some { write := b.write, width := b.width, offset := BitVec.ofNat 8 (b.address - Config.regBase), value := b.value }
  else none

/-- The instruction of an encoding. -/
def decode : Encoding → Except DecodeError Instr
  | .command w => decodeCommand w
  | .busop d v => decodeBusop d v

/-! ### The encoder -/

/-- OPCODE of a command (R92). -/
def opcodeOf : Op → Word
  | .decodeTile => 0x1
  | .compose => 0x2
  | .decodeCompose => 0x3

/-- The command word of a command (R90, R105). -/
def encodeCommandWord (c : Command) : Word :=
  opcodeOf c.op ||| (if c.order = .bgra then 0x10 else 0) ||| (if c.swap then 0x20 else 0)

/-- The encoding of an instruction (R105, R106). A read carries no value. -/
def encode : Instr → Encoding
  | .decodeTile => .command (encodeCommandWord ⟨.decodeTile, .rgba, false⟩)
  | .compose order swap => .command (encodeCommandWord ⟨.compose, order, swap⟩)
  | .decodeCompose order swap => .command (encodeCommandWord ⟨.decodeCompose, order, swap⟩)
  | .rd offset => .busop (0#1 ++ offset) 0
  | .wrId v => .busop 0x100 v
  | .wrCtrl v => .busop 0x104 v
  | .wrStatus v => .busop 0x108 v
  | .wrCmd v => .busop 0x10C v
  | .wrSrcAddr v => .busop 0x110 v
  | .wrSrcLen v => .busop 0x114 v
  | .wrDstAddr v => .busop 0x118 v
  | .wrDstLen v => .busop 0x11C v
  | .wrWidth v => .busop 0x120 v
  | .wrHeight v => .busop 0x124 v
  | .wrTileCount v => .busop 0x128 v
  | .wrTileIndex v => .busop 0x12C v
  | .wrOutWidth v => .busop 0x130 v
  | .wrOutHeight v => .busop 0x134 v
  | .wrReserved offset v => .busop (1#1 ++ offset) v

/-! ### The table's numbering -/

/-- Whether a row of `nbits` bits is a command word's; a BUSOP row has nine bits, two bytes (log entry 16). -/
def isCommandRow (nbits : Nat) : Bool := decide (16 < nbits)

/-- The transaction that carries the numbered bits to the core. A command word arrives as the value of a 4-byte write
to CMD (R34, R103); a descriptor is the transaction it describes, with value 0; a number with a bit above the
format's last one is no 4-byte transaction (log entry 16). -/
def tableTransaction (nbits w : Nat) : Transaction :=
  if isCommandRow nbits then
    { write := true, width := if w < 2 ^ 32 then 4 else 0, offset := 0x0C, value := BitVec.ofNat 32 w }
  else
    { write := w.testBit 8, width := if w < 2 ^ 9 then 4 else 0, offset := BitVec.ofNat 8 w, value := 0 }

/-- The instruction of the numbered bits, or why there is none. -/
def decodeTable (nbits w : Nat) : Except DecodeError Instr :=
  if isCommandRow nbits then
    if w < 2 ^ 32 then decodeCommand (BitVec.ofNat 32 w) else .error .bitsAboveFormat
  else if w < 2 ^ 9 then decodeBusop (BitVec.ofNat 9 w) 0 else .error .bitsAboveFormat

/-- The instruction this decoder reads from an instruction whose bits are `w`, numbered as spec/opcode_table.json
numbers them. -/
def decodeTableWord (nbits w : Nat) : Option Instr := (decodeTable nbits w).toOption

end Sys2Proof
end

