-- ==== Sys2Proof/Machine/State.lean ====
section
/-! DEFINITION. The state of the core and of its surroundings (R49 and INVENTORY.md, State), the reasons a step can
stop, and the state right after reset (R48). -/

namespace Sys2Proof.Machine

/-- System memory (R45): the bytes something has written, by address. Canonical form: addresses strictly rising
(Memory.wf). An unlisted address has no entry; what it reads as is Memory.read's to say (log entry 4). -/
abbrev Memory := List Host.Cell

/-- The eight operand registers, offsets 0x10 to 0x2C (R20, R21, R35 to R39). -/
structure OperandRegs where
  srcAddr   : Word
  srcLen    : Word
  dstAddr   : Word
  dstLen    : Word
  width     : Word
  height    : Word
  tileCount : Word
  tileIndex : Word
deriving DecidableEq, Repr

/-- The operation snapshot (R40, R208): the command and the operand registers at acceptance. -/
structure Snapshot where
  cmd  : Command
  regs : OperandRegs
deriving DecidableEq, Repr

/-- The engine phase with the snapshot (R40, R43, R49): BUSY has one, IDLE has none (log entry 13). -/
inductive Engine where
  | idle
  | busy (snap : Snapshot)
deriving DecidableEq, Repr

/-- The model faults (R247). -/
inductive ModelFault where
  /-- A host write to a byte of the running command's source or destination range while BUSY (R78). -/
  | hostRace
deriving DecidableEq, Repr

/-- The core errors (R230): why a command is rejected. -/
inductive CoreError where
  /-- The destination buffer is shorter than the output (R232). -/
  | allocationFailure
  /-- WIDTH is not a legal dimension (R233). -/
  | malformedWidth
  /-- HEIGHT is not a legal dimension (R233). -/
  | malformedHeight
  /-- TILE_COUNT differs from (WIDTH/512)*(HEIGHT/512) (R233). -/
  | malformedCount
  /-- The source buffer is shorter than required (R233). -/
  | malformedSource
  /-- Reserved OPCODE (R231). -/
  | illegalOpcode
  /-- A reserved bit of the command word is set (R231). -/
  | illegalReserved
  /-- The source range passes the top of the address space (R234). -/
  | rangeSource
  /-- The destination range passes the top of the address space (R234). -/
  | rangeDestination
  /-- The source and destination ranges share a byte (R235). -/
  | overlap
deriving DecidableEq, Repr

/-- One thing the host or the platform does to the core or to system memory (R103, R200, R213, R270). -/
inductive HostAction where
  /-- A transaction on the register window, by its offset there (R200). -/
  | bus (t : Transaction)
  /-- An access on the host bus, by its address there (R71, R251). -/
  | busAt (b : BusAccess)
  /-- A read of one byte of system memory (R213). -/
  | memRead (addr : Word)
  /-- A write of one byte of system memory (R213). -/
  | memWrite (addr : Word) (v : Byte)
  /-- The platform drives the reset input (R270). -/
  | hardReset
deriving DecidableEq, Repr

/-- What the host got back from its last action (log entry 11). -/
inductive HostResponse where
  /-- No answer of the core: nothing yet, or an action the core does not answer. -/
  | none
  /-- A write was taken. -/
  | done
  /-- The word of a register read (R201). -/
  | data (v : Word)
  /-- The byte of a system-memory read (R213). -/
  | byte (b : Byte)
  /-- The bus error of an ill-formed transaction (R200). -/
  | busError
deriving DecidableEq, Repr

/-- The state. The first group is the core's (R49), then system memory and the model faults (R45, R47), then the
model's own fields (log entries 1, 11 and 12). -/
structure State where
  irqEn     : Bool
  done      : Bool
  err       : Bool
  ignwr     : Bool
  errcode   : BitVec 4
  errdetail : BitVec 4
  regs      : OperandRegs
  outWidth  : Word
  outHeight : Word
  engine    : Engine
  mem       : Memory
  faults    : List ModelFault
  host      : List HostAction
  resp      : HostResponse
  draws     : Nat
deriving DecidableEq, Repr

/-- Why a step stops with a fault. -/
inductive Fault where
  /-- Raised by the turn that follows a HostRace: the run has no further meaning (R78, R247). Safe. -/
  | hostRace
  /-- Raised by a command of the engine whose ranges pass 2^32, the end of system memory (R45, R68). R238 accepts no
  such command, so no run reaches it (log entry 9). Safe. -/
  | outsideAddressSpace
deriving DecidableEq, Repr

/-- Why a step refuses. -/
inductive Refusal where
  /-- Raised by an arm of exec that has no meaning yet; no arm is left so. Safe. -/
  | notModelled (mnemonic : String)
deriving DecidableEq, Repr

/-- The operand registers after reset (R48). -/
def OperandRegs.reset : OperandRegs :=
  { srcAddr := 0, srcLen := 0, dstAddr := 0, dstLen := 0, width := 0, height := 0, tileCount := 0, tileIndex := 0 }

/-- The machine right after reset (R48, R270): registers 0, phase IDLE, no snapshot, no model fault. Memory is
outside the core: nothing is listed (log entry 4). The last three fields are the model's own: DESIGN CHOICE, log
entries 1, 11 and 12. -/
def State.reset : State :=
  { irqEn := false, done := false, err := false, ignwr := false, errcode := 0, errdetail := 0,
    regs := .reset, outWidth := 0, outHeight := 0, engine := .idle, mem := [], faults := [],
    host := [], resp := .none, draws := 0 }

/-- STATUS.BUSY: 1 exactly while the engine phase is BUSY (R29, R49). -/
def State.busy (s : State) : Bool :=
  match s.engine with
  | .idle => false
  | .busy _ => true

/-- The operation snapshot; none exactly in IDLE (R40, R49). -/
def State.snapshot (s : State) : Option Snapshot :=
  match s.engine with
  | .idle => none
  | .busy snap => some snap

end Sys2Proof.Machine
end

