-- ==== Sys2Proof/Machine/Flags.lean ====
section
/-! DEFINITION. Every flag computation of the core: the STATUS and CTRL words (R23, R28), the error codes (R230), the
write-1-to-clear effects (R204), the ignored write (R32) and the interrupt output (R244). No datapath result sets a
flag (R46). -/

namespace Sys2Proof.Machine

/-- ERRCODE of an error (R230). -/
def CoreError.code : CoreError → BitVec 4
  | .allocationFailure => 1
  | .malformedWidth => 2
  | .malformedHeight => 2
  | .malformedCount => 2
  | .malformedSource => 2
  | .illegalOpcode => 3
  | .illegalReserved => 3
  | .rangeSource => 4
  | .rangeDestination => 4
  | .overlap => 5

/-- ERRDETAIL of an error (R230). -/
def CoreError.detail : CoreError → BitVec 4
  | .allocationFailure => 0
  | .malformedWidth => 1
  | .malformedHeight => 2
  | .malformedCount => 3
  | .malformedSource => 4
  | .illegalOpcode => 1
  | .illegalReserved => 2
  | .rangeSource => 1
  | .rangeDestination => 2
  | .overlap => 0

/-- The STATUS word, its fields from bit 31 down (R28, R201). -/
def State.statusWord (s : State) : Word :=
  0#16 ++ s.errdetail ++ s.errcode ++ 0#4 ++ BitVec.ofBool s.ignwr ++ BitVec.ofBool s.err
    ++ BitVec.ofBool s.done ++ BitVec.ofBool s.busy

/-- The CTRL word: IRQ_EN in bit 0, the rest reads 0 (R23, R26, R201). -/
def State.ctrlWord (s : State) : Word := (BitVec.ofBool s.irqEn).setWidth 32

/-- The interrupt output (R24, R244). -/
def State.irq (s : State) : Bool := s.irqEn && s.done

/-- DONE <- 0. -/
def State.clearDone (s : State) : State := { s with done := false }

/-- ERR, ERRCODE and ERRDETAIL <- 0: the host's acknowledgement of an error, which is all the return from an error
there is (R31, R240). -/
def State.clearErr (s : State) : State := { s with err := false, errcode := 0, errdetail := 0 }

/-- IGNWR <- 0. -/
def State.clearIgnwr (s : State) : State := { s with ignwr := false }

/-- Write 1 to clear: bit 1 DONE, bit 2 ERR with its codes, bit 3 IGNWR; BUSY and all other bits are ignored (R204). -/
def State.writeStatus (s : State) (v : Word) : State :=
  let s := if v.getLsbD 1 then s.clearDone else s
  let s := if v.getLsbD 2 then s.clearErr else s
  if v.getLsbD 3 then s.clearIgnwr else s

/-- A write discarded while BUSY sets IGNWR and does nothing else (R32, R205, R206). -/
def State.ignoreWrite (s : State) : State := { s with ignwr := true }

end Sys2Proof.Machine
end

