-- ==== Sys2Proof/Machine/Ops.lean ====
section
/-! DEFINITION. The named operations: over system memory, over the source and destination ranges of a command (R66,
R67), and over the state: error entry (R236), acceptance (R208), completion (R211) and the two resets (R270, R272). -/

namespace Sys2Proof.Machine

/-! ### System memory -/

/-- The entry of an address; none where nothing has been written. -/
def Memory.find (m : Memory) (a : Nat) : Option Byte :=
  match m with
  | [] => none
  | c :: rest => if c.1 = a then some c.2 else Memory.find rest a

/-- MemRead8 (R12): the byte last written, or what the memory held at power-on, which is a free value (R48, log
entry 4). -/
def Memory.read (m : Memory) (a : Nat) : Byte := (Memory.find m a).getD (Config.powerOnByte a)

/-- The memory after byte `f i` is written at `start + i`, for each `i` below `len`. -/
def Memory.writeRange (m : Memory) (start len : Nat) (f : Nat → Byte) : Memory :=
  m.filter (fun c => decide (c.1 < start))
    ++ (List.range len).map (fun i => (start + i, f i))
    ++ m.filter (fun c => decide (start + len ≤ c.1))

/-- MemWrite8 (R12). -/
def Memory.write (m : Memory) (a : Nat) (v : Byte) : Memory := Memory.writeRange m a 1 (fun _ => v)

/-- The memory after a sequence of MemWrite8 in the order given. -/
def Memory.writeAll (m : Memory) (writes : List (Nat × Byte)) : Memory :=
  writes.foldl (fun m w => Memory.write m w.1 w.2) m

/-- The canonical form: addresses strictly rising and all below 2^32 (R45). -/
abbrev Memory.wf (m : Memory) : Prop :=
  List.Pairwise (fun a b => a.1 < b.1) m ∧ ∀ c ∈ m, c.1 < Config.addrSpace

/-! ### Ranges -/

/-- The bytes from `start`, `len` of them. -/
structure ByteRange where
  start : Nat
  len   : Nat
deriving DecidableEq, Repr

/-- The address after the range's last byte. -/
def ByteRange.stop (r : ByteRange) : Nat := r.start + r.len

/-- Whether the byte at `a` is in the range. -/
def ByteRange.contains (r : ByteRange) (a : Nat) : Bool := decide (r.start ≤ a) && decide (a < r.stop)

/-- Whether two ranges share a byte, as R235 tests it. -/
def ByteRange.overlaps (r d : ByteRange) : Bool := decide (r.start < d.stop) && decide (d.start < r.stop)

/-- Whether a range ends in the address space (R68). -/
def ByteRange.inSpace (r : ByteRange) : Bool := decide (r.stop ≤ Config.addrSpace)

/-- The source range of a command (R66). -/
def sourceRange (op : Op) (r : OperandRegs) : ByteRange :=
  match op with
  | .decodeTile => ⟨r.srcAddr.toNat + Config.ctileBytes * r.tileIndex.toNat, Config.ctileBytes⟩
  | .compose => ⟨r.srcAddr.toNat, Config.dtileBytes * r.tileCount.toNat⟩
  | .decodeCompose => ⟨r.srcAddr.toNat, Config.ctileBytes * r.tileCount.toNat⟩

/-- `src_end_off`, which SRC_LEN must cover (R66). -/
def sourceEndOffset (op : Op) (r : OperandRegs) : Nat :=
  match op with
  | .decodeTile => Config.ctileBytes * (r.tileIndex.toNat + 1)
  | .compose => Config.dtileBytes * r.tileCount.toNat
  | .decodeCompose => Config.ctileBytes * r.tileCount.toNat

/-- The output size `dst_need` (R67). -/
def outputBytes (op : Op) (r : OperandRegs) : Nat :=
  match op with
  | .decodeTile => Config.dtileBytes
  | .compose => r.width.toNat * r.height.toNat * Config.pixelBytes
  | .decodeCompose => r.width.toNat * r.height.toNat * Config.pixelBytes

/-- The destination range of a command (R67). -/
def destRange (op : Op) (r : OperandRegs) : ByteRange := ⟨r.dstAddr.toNat, outputBytes op r⟩

/-- The source range of a running command. -/
def Snapshot.source (sn : Snapshot) : ByteRange := sourceRange sn.cmd.op sn.regs

/-- The destination range of a running command. -/
def Snapshot.dest (sn : Snapshot) : ByteRange := destRange sn.cmd.op sn.regs

/-! ### The state -/

/-- The host gets an answer to its action (log entry 11). -/
def State.respond (s : State) (r : HostResponse) : State := { s with resp := r }

/-- Error entry (R236), the one way a core error is taken: the status says the error, the phase stays IDLE, and no
register, no memory byte and no control flow changes. -/
def State.reject (s : State) (e : CoreError) : State :=
  { s with done := true, err := true, errcode := e.code, errdetail := e.detail, outWidth := 0, outHeight := 0 }

/-- Acceptance (R208). IGNWR is not changed. -/
def State.accept (s : State) (c : Command) : State :=
  { s with engine := .busy ⟨c, s.regs⟩, done := false, err := false, errcode := 0, errdetail := 0,
           outWidth := 0, outHeight := 0 }

/-- Completion (R211): the command's writes, its output dimensions, phase IDLE and DONE. -/
def State.complete (s : State) (dest : ByteRange) (byteAt : Nat → Byte) (outW outH : Word) : State :=
  { s with mem := Memory.writeRange s.mem dest.start dest.len byteAt, outWidth := outW, outHeight := outH,
           engine := .idle, done := true }

/-- The engine's step (R209, R211) for the command `op` on the operands `r`: it completes, its ranges being in the
address space, as R238 has seen to (log entry 9). -/
def State.perform (s : State) (op : Op) (r : OperandRegs) (byteAt : Nat → Byte) (outW outH : Word) :
    Host.Outcome State Fault Refusal :=
  if (sourceRange op r).inSpace && (destRange op r).inSpace then
    .next (s.complete (destRange op r) byteAt outW outH)
  else .fault .outsideAddressSpace

/-- The write of a value to an operand register (R205): discarded with IGNWR while BUSY. -/
def State.writeOperand (s : State) (put : OperandRegs → OperandRegs) : State :=
  if s.busy then s.ignoreWrite else { s with regs := put s.regs }

/-- Every register, field and the phase as after reset (R48, R270). Memory is outside the core, the model faults stay
(R47), and so do the model's own fields. -/
def State.coreReset (s : State) : State :=
  { State.reset with mem := s.mem, faults := s.faults, host := s.host, resp := s.resp, draws := s.draws }

/-- The destination bytes of an aborted command: each a free draw (R273, log entry 6). -/
def State.abort (s : State) (sn : Snapshot) : State :=
  { s with mem := Memory.writeRange s.mem sn.dest.start sn.dest.len (fun i => Config.freeByte (s.draws + i)),
           draws := s.draws + sn.dest.len }

/-- Soft reset (R272); while BUSY it aborts the command (R273). -/
def State.softReset (s : State) : State :=
  match s.engine with
  | .idle => s.coreReset
  | .busy sn => (s.abort sn).coreReset

/-- Hard reset (R270): one step; system memory is not changed (log entry 8). -/
def State.hardReset (s : State) : State := s.coreReset.respond .none

/-- A model fault is recorded, once (R47). -/
def State.recordFault (s : State) (f : ModelFault) : State :=
  { s with faults := if f ∈ s.faults then s.faults else f :: s.faults }

end Sys2Proof.Machine
end

