-- ==== Sys2Proof/Machine/Operands.lean ====
section
/-! DEFINITION. Operand forms: the register a window offset names (R21, R201), the multi-byte fields of a compressed
block (R62, R94, R101) and the pixel a decoded tile holds in memory (R98, R161). -/

namespace Sys2Proof.Machine

/-- What a read of the register at an aligned offset returns (R201). It has no side effect. -/
def State.readReg (s : State) (offset : BitVec 8) : Word :=
  match offset.toNat with
  | 0x00 => Config.idValue
  | 0x04 => s.ctrlWord
  | 0x08 => s.statusWord
  | 0x0C => 0
  | 0x10 => s.regs.srcAddr
  | 0x14 => s.regs.srcLen
  | 0x18 => s.regs.dstAddr
  | 0x1C => s.regs.dstLen
  | 0x20 => s.regs.width
  | 0x24 => s.regs.height
  | 0x28 => s.regs.tileCount
  | 0x2C => s.regs.tileIndex
  | 0x30 => s.outWidth
  | 0x34 => s.outHeight
  | _ => 0

/-- MemRead (R12, R62): `n` bytes assembled in the given byte order; any address is allowed (R63). -/
def memRead (order : ByteOrder) (m : Memory) (addr n : Nat) : Nat :=
  match order with
  | .little => ((List.range n).map (fun i => (Memory.read m (addr + i)).toNat <<< (8 * i))).sum
  | .big => ((List.range n).map (fun i => (Memory.read m (addr + i)).toNat <<< (8 * (n - 1 - i)))).sum

/-- A colour of three 8-bit channels (R13). -/
structure Rgb where
  r : Byte
  g : Byte
  b : Byte
deriving DecidableEq, Repr

/-- A decoded pixel: the logical channels (R98). -/
structure Pixel where
  r : Byte
  g : Byte
  b : Byte
  a : Byte
deriving DecidableEq, Repr

/-- `color0` of the block at `a` (R94, R101). -/
def color0At (order : ByteOrder) (m : Memory) (a : Nat) : BitVec 16 := BitVec.ofNat 16 (memRead order m a 2)

/-- `color1` of the block at `a` (R94, R101). -/
def color1At (order : ByteOrder) (m : Memory) (a : Nat) : BitVec 16 := BitVec.ofNat 16 (memRead order m (a + 2) 2)

/-- `codes` of the block at `a` (R94, R101). -/
def codesAt (order : ByteOrder) (m : Memory) (a : Nat) : BitVec 32 := BitVec.ofNat 32 (memRead order m (a + 4) 4)

/-- Channel extraction `(r5, g6, b5)`, red in the most significant bits (R95, R122; log entry 10). -/
def ext565 (c : BitVec 16) : BitVec 5 × BitVec 6 × BitVec 5 :=
  (c.extractLsb' 11 5, c.extractLsb' 5 6, c.extractLsb' 0 5)

/-- Pixel number `p` of the pixel buffer at `base`, bytes r, g, b, a (R65, R98). -/
def pixelAt (m : Memory) (base p : Nat) : Pixel :=
  { r := Memory.read m (base + 4 * p), g := Memory.read m (base + 4 * p + 1),
    b := Memory.read m (base + 4 * p + 2), a := Memory.read m (base + 4 * p + 3) }

/-- Byte `k` of a decoded pixel in memory (R98). -/
def Pixel.byte (p : Pixel) (k : Nat) : Byte :=
  match k with
  | 0 => p.r
  | 1 => p.g
  | 2 => p.b
  | _ => p.a

end Sys2Proof.Machine
end

