-- ==== Sys2Proof/Machine/Acceptance.lean ====
section
/-! DEFINITION. The acceptance checks of a command in their order (R238, R239) and the decision at the CMD write
(R206, R207). All arithmetic is on unbounded integers (R238, D38). -/

namespace Sys2Proof.Machine

/-- A legal width or height (R233, R238). -/
def legalDim (v : Nat) : Bool := v % Config.tileDim == 0 && decide (512 ≤ v) && decide (v ≤ Config.maxDim)

/-- The tile count the geometry asks for (R39, R233). -/
def geometryTiles (r : OperandRegs) : Nat :=
  (r.width.toNat / Config.tileDim) * (r.height.toNat / Config.tileDim)

/-- The geometry tests, for the two commands that compose (R233, R238). -/
def checkGeometry (op : Op) (r : OperandRegs) : Option CoreError :=
  if op = .decodeTile then none
  else if !legalDim r.width.toNat then some .malformedWidth
  else if !legalDim r.height.toNat then some .malformedHeight
  else if r.tileCount.toNat ≠ geometryTiles r then some .malformedCount
  else none

/-- The source tests, then the destination tests, then the overlap (R232 to R235, R238). -/
def checkRanges (op : Op) (r : OperandRegs) : Option CoreError :=
  if sourceEndOffset op r > r.srcLen.toNat then some .malformedSource
  else if r.srcAddr.toNat + sourceEndOffset op r > Config.addrSpace then some .rangeSource
  else if outputBytes op r > r.dstLen.toNat then some .allocationFailure
  else if r.dstAddr.toNat + outputBytes op r > Config.addrSpace then some .rangeDestination
  else if (sourceRange op r).overlaps (destRange op r) then some .overlap
  else none

/-- The tests on the operand registers: the first that fails is reported (R238, R239). -/
def checkOperands (op : Op) (r : OperandRegs) : Option CoreError :=
  match checkGeometry op r with
  | some e => some e
  | none => checkRanges op r

/-- The core error of an illegal command word (R231). -/
def illegalWordError : IllegalWord → CoreError
  | .reservedOpcode => .illegalOpcode
  | .reservedBits => .illegalReserved

/-- `check(v, r)` of R238. -/
def check (v : Word) (r : OperandRegs) : Except CoreError Command :=
  match decodeCommandWord v with
  | .error e => .error (illegalWordError e)
  | .ok c =>
    match checkOperands c.op r with
    | some e => .error e
    | none => .ok c

/-- The decision at a CMD write in IDLE: rejection or acceptance, in one step (R206, R207). -/
def State.issue (s : State) (v : Word) : State :=
  match check v s.regs with
  | .error e => s.reject e
  | .ok c => s.accept c

end Sys2Proof.Machine
end

