-- ==== Sys2Proof/Machine/BlockDecoder.lean ====
section
/-! DEFINITION. The Block Decoder datapath (R120 to R135) and the command DECODE_TILE (R140). Every value is an unsigned
integer, computed exactly and narrowed to a byte where a channel is stored (R11, R133). -/

namespace Sys2Proof.Machine

/-- The address of the block in column `bx` and row `by` of the tile at `tb` (R97, R121). -/
def blockAddr (tb bx by_ : Nat) : Nat :=
  tb + by_ * Config.blockBytes * Config.blocksPerRow + bx * Config.blockBytes

/-- 5-bit to 8-bit expansion (R123): the source's formula, not bit replication (R134). -/
def exp5 (v : Nat) : Nat := (v * 527 + 23) >>> 6

/-- 6-bit to 8-bit expansion (R123). -/
def exp6 (v : Nat) : Nat := (v * 259 + 33) >>> 6

/-- A packed colour expanded (R122, R123). -/
def to888 (c : BitVec 16) : Rgb :=
  let f := ext565 c
  { r := BitVec.ofNat 8 (exp5 f.1.toNat), g := BitVec.ofNat 8 (exp6 f.2.1.toNat), b := BitVec.ofNat 8 (exp5 f.2.2.toNat) }

/-- One formula on each of the three channels, which never interact (R13, R135). -/
def perChannel (f : Nat → Nat → Nat) (p0 p1 : Rgb) : Rgb :=
  { r := BitVec.ofNat 8 (f p0.r.toNat p1.r.toNat), g := BitVec.ofNat 8 (f p0.g.toNat p1.g.toNat),
    b := BitVec.ofNat 8 (f p0.b.toNat p1.b.toNat) }

/-- The four colours a selector chooses among (R126, R127). -/
structure Palette where
  c0 : Rgb
  c1 : Rgb
  c2 : Rgb
  c3 : Rgb
deriving DecidableEq, Repr

/-- The colour of a 2-bit selector (R129). -/
def Palette.get (p : Palette) (s : BitVec 2) : Rgb :=
  if s = 0 then p.c0 else if s = 1 then p.c1 else if s = 2 then p.c2 else p.c3

/-- Four-colour mode: the unsigned comparison of the packed values (R125; log entry 10). -/
def fourColour (color0 color1 : BitVec 16) : Bool := decide (color1.toNat < color0.toNat)

/-- The four-colour palette (R126): truncating division of the expanded channels. -/
def palette4 (p0 p1 : Rgb) : Palette :=
  { c0 := p0, c1 := p1, c2 := perChannel (fun a b => (2 * a + b) / 3) p0 p1,
    c3 := perChannel (fun a b => (a + 2 * b) / 3) p0 p1 }

/-- The three-colour palette (R127): the fourth colour is opaque black. -/
def palette3 (p0 p1 : Rgb) : Palette :=
  { c0 := p0, c1 := p1, c2 := perChannel (fun a b => (a + b) / 2) p0 p1, c3 := ⟨0, 0, 0⟩ }

/-- The palette of a block (R125 to R127). -/
def palette (color0 color1 : BitVec 16) : Palette :=
  if fourColour color0 color1 then palette4 (to888 color0) (to888 color1)
  else palette3 (to888 color0) (to888 color1)

/-- The selector word is the codes field, bit for bit (R124, 90_conflicts.md C4). -/
def selword (codes : BitVec 32) : BitVec 32 := codes

/-- The selector of the pixel in column `xb` and row `yb` of a block (R96, R128). -/
def selector (sw : BitVec 32) (xb yb : Nat) : BitVec 2 := ((sw >>> ((yb * 4 + xb) * 2)) &&& 3).setWidth 2

/-- A colour with the alpha every decoded pixel has (R129). -/
def Rgb.opaquePixel (c : Rgb) : Pixel := { r := c.r, g := c.g, b := c.b, a := Config.alphaValue }

/-- The pixel in column `xb` and row `yb` of a block (R131). -/
def decodeBlock (color0 color1 : BitVec 16) (codes : BitVec 32) (xb yb : Nat) : Pixel :=
  ((palette color0 color1).get (selector (selword codes) xb yb)).opaquePixel

/-- The pixel in column `xb` and row `yb` of the block at address `a` (R101, R121, R131). -/
def decodeBlockAt (order : ByteOrder) (m : Memory) (a xb yb : Nat) : Pixel :=
  decodeBlock (color0At order m a) (color1At order m a) (codesAt order m a) xb yb

/-- The number in a decoded tile of pixel `(xb, yb)` of block `(bx, by)` (R130). -/
def tilePixelNumber (bx by_ xb yb : Nat) : Nat := (by_ * 4 + yb) * Config.tileDim + (bx * 4 + xb)

/-- Pixel number `i` of the tile at `tb`, decoded (R132): tile pixel `(x, y)` with `i = y*512 + x` lies in block
`(x div 4, y div 4)` at `(x mod 4, y mod 4)` (R97, R130). -/
def decodeTilePixel (order : ByteOrder) (m : Memory) (tb i : Nat) : Pixel :=
  let x := i % Config.tileDim
  let y := i / Config.tileDim
  decodeBlockAt order m (blockAddr tb (x / Config.blockDim) (y / Config.blockDim)) (x % Config.blockDim)
    (y % Config.blockDim)

/-- Byte `k` of the decoded tile DECODE_TILE writes (R98, R140). -/
def decodedTileByte (order : ByteOrder) (m : Memory) (tb k : Nat) : Byte :=
  (decodeTilePixel order m tb (k / Config.pixelBytes)).byte (k % Config.pixelBytes)

/-- The engine's DECODE_TILE on operands `r` (R140, R211). -/
def performDecodeTile (r : OperandRegs) (s : State) : Host.Outcome State Fault Refusal :=
  s.perform .decodeTile r
    (decodedTileByte Config.blockByteOrder s.mem (sourceRange .decodeTile r).start) 512 512

/-- DECODE_TILE (R140). In IDLE its word is written to CMD, which rejects or accepts it (R206); in BUSY it is the
engine's running command, which completes (R209, R211; log entry 3). -/
def execDecodeTile (s : State) : Host.Outcome State Fault Refusal :=
  match s.engine with
  | .idle => .next ((s.issue (encodeCommandWord ⟨.decodeTile, .rgba, false⟩)).respond .done)
  | .busy sn => performDecodeTile sn.regs s

end Sys2Proof.Machine
end

