-- ==== Sys2Proof/Machine/Compositor.lean ====
section
/-! DEFINITION. The Tile Compositor datapath (R160 to R174) and the command COMPOSE (R175). The image is given pixel by
pixel (R173); composeWrites is the loop nest of R172, which R171 makes the same image. -/

namespace Sys2Proof.Machine

/-- `height_stride` (R162). -/
def heightStride (w h : Nat) (swap : Bool) : Nat := if swap then w else h

/-- `width_stride` (R162). -/
def widthStride (w h : Nat) (swap : Bool) : Nat := if swap then h else w

/-- The decoded-tile column that output column `x` reads (R165). -/
def remapX (x : Nat) : Nat := (x + 8) % 512

/-- The decoded-tile row that output position `(x, y)` reads (R165). -/
def remapY (x y : Nat) : Nat := if x > 503 then (y + 4) % 512 else y

/-- The decoded-tile pixel that output position `(x, y)` of a placed tile reads: a gather (R165, 90_conflicts.md C1). -/
def remap (p : Nat × Nat) : Nat × Nat := (remapX p.1, remapY p.1 p.2)

/-- The inverse of the remap, from a decoded pixel to the output position that reads it (R166). -/
def unmap (p : Nat × Nat) : Nat × Nat :=
  if p.1 ≥ 8 then (p.1 - 8, p.2) else (p.1 + 504, (p.2 + 508) % 512)

/-- Byte `k` of an output pixel: the channel order of the command, and alpha 255 whatever the input (R99, R167,
R168). -/
def placedByte (order : ChannelOrder) (p : Pixel) (k : Nat) : Byte :=
  match k with
  | 0 => if order = .bgra then p.b else p.r
  | 1 => p.g
  | 2 => if order = .bgra then p.r else p.b
  | _ => Config.alphaValue

/-- The output pixel number of position `(x, y)` of the tile in grid cell `(row, col)` (R169). -/
def destNumber (ws row col x y : Nat) : Nat :=
  (row * Config.tileDim + y) * ws + (col * Config.tileDim) + x

/-- The decoded pixel that image pixel `(x, y)` shows (R163, R165, R173). -/
def imagePixel (tile : Nat → Nat → Pixel) (ws x y : Nat) : Pixel :=
  let cols := ws / Config.tileDim
  let t := (y / Config.tileDim) * cols + x / Config.tileDim
  let o := remap (x % Config.tileDim, y % Config.tileDim)
  tile t (o.2 * Config.tileDim + o.1)

/-- Byte `k` of the image (R99, R173): pixel number `d = Y*width_stride + X` is at byte `4*d`. -/
def imageByte (tile : Nat → Nat → Pixel) (order : ChannelOrder) (ws k : Nat) : Byte :=
  let d := k / Config.pixelBytes
  placedByte order (imagePixel tile ws (d % ws) (d / ws)) (k % Config.pixelBytes)

/-- The four byte writes of one output pixel (R172). -/
def pixelWrites (tile : Nat → Nat → Pixel) (order : ChannelOrder) (ws dst row col y x : Nat) : List (Nat × Byte) :=
  let px := tile (row * (ws / Config.tileDim) + col) (remapY x y * Config.tileDim + remapX x)
  (List.range 4).map (fun k => (dst + 4 * destNumber ws row col x y + k, placedByte order px k))

/-- The loop nest of R172: the byte writes of a composition at `dst`, in the loops' order. -/
def composeWrites (tile : Nat → Nat → Pixel) (w h : Nat) (order : ChannelOrder) (swap : Bool) (dst : Nat) :
    List (Nat × Byte) :=
  let ws := widthStride w h swap
  (List.range (heightStride w h swap / Config.tileDim)).flatMap fun row =>
    (List.range (ws / Config.tileDim)).flatMap fun col =>
      (List.range Config.tileDim).flatMap fun y =>
        (List.range Config.tileDim).flatMap fun x => pixelWrites tile order ws dst row col y x

/-- The engine's composition of a tile sequence on operands `r` (R170, R173, R211): what COMPOSE and DECODE_COMPOSE
share. -/
def performCompose (op : Op) (order : ChannelOrder) (swap : Bool) (r : OperandRegs) (tile : Nat → Nat → Pixel)
    (s : State) : Host.Outcome State Fault Refusal :=
  s.perform op r (imageByte tile order (widthStride r.width.toNat r.height.toNat swap))
    (if swap then r.height else r.width) (if swap then r.width else r.height)

/-- The decoded tiles COMPOSE reads from memory (R161). -/
def storedTile (m : Memory) (src t p : Nat) : Pixel := pixelAt m (src + Config.dtileBytes * t) p

/-- COMPOSE (R175), issued in IDLE and completed in BUSY as DECODE_TILE is (log entry 3). -/
def execCompose (order : ChannelOrder) (swap : Bool) (s : State) : Host.Outcome State Fault Refusal :=
  match s.engine with
  | .idle => .next ((s.issue (encodeCommandWord ⟨.compose, order, swap⟩)).respond .done)
  | .busy sn => performCompose .compose order swap sn.regs (storedTile s.mem sn.regs.srcAddr.toNat) s

end Sys2Proof.Machine
end

