-- ==== Sys2Proof/Machine/DecodeCompose.lean ====
section
/-! DEFINITION. The command DECODE_COMPOSE (R190): the Block Decoder's tiles into the Tile Compositor, with no decoded
tile in system memory. -/

namespace Sys2Proof.Machine

/-- The tiles DECODE_COMPOSE decodes from the compressed source (R190). -/
def decodedTile (m : Memory) (src t p : Nat) : Pixel :=
  decodeTilePixel Config.blockByteOrder m (src + Config.ctileBytes * t) p

/-- DECODE_COMPOSE (R190), issued in IDLE and completed in BUSY as DECODE_TILE is (log entry 3). -/
def execDecodeCompose (order : ChannelOrder) (swap : Bool) (s : State) : Host.Outcome State Fault Refusal :=
  match s.engine with
  | .idle => .next ((s.issue (encodeCommandWord ⟨.decodeCompose, order, swap⟩)).respond .done)
  | .busy sn => performCompose .decodeCompose order swap sn.regs (decodedTile s.mem sn.regs.srcAddr.toNat) s

end Sys2Proof.Machine
end

