-- ==== Sys2Proof/Machine/HostBus.lean ====
section
/-! DEFINITION. The meanings of the host-bus operations (R201 to R206). Each is one atomic step (R212) and answers the
host: a read with the register's word, a write with an acknowledgement (log entry 11). -/

namespace Sys2Proof.Machine

/-- The bus error of R200: no state changes, the host is told. -/
def State.busError (s : State) : State := s.respond .busError

/-- RD (R201): no side effect; a misaligned offset is a bus error (R200). -/
def execRd (offset : BitVec 8) (s : State) : Host.Outcome State Fault Refusal :=
  .next (if aligned offset then s.respond (.data (s.readReg offset)) else s.busError)

/-- A write that changes nothing (R202). -/
def State.noEffect (s : State) : State := s.respond .done

/-- WR.ID (R22, R202). -/
def execWrId (_ : Word) (s : State) : Host.Outcome State Fault Refusal := .next s.noEffect

/-- WR.CTRL (R23, R27, R203): bit 31 is a soft reset and discards the rest; otherwise bit 0 is IRQ_EN. In any
phase. -/
def execWrCtrl (v : Word) (s : State) : Host.Outcome State Fault Refusal :=
  .next ((if v.getLsbD 31 then s.softReset else { s with irqEn := v.getLsbD 0 }).respond .done)

/-- WR.STATUS (R204), in any phase. -/
def execWrStatus (v : Word) (s : State) : Host.Outcome State Fault Refusal :=
  .next ((s.writeStatus v).respond .done)

/-- WR.CMD (R206): discarded with IGNWR while BUSY, else decided at once. -/
def execWrCmd (v : Word) (s : State) : Host.Outcome State Fault Refusal :=
  .next ((if s.busy then s.ignoreWrite else s.issue v).respond .done)

/-- WR.SRC_ADDR (R35, R205). -/
def execWrSrcAddr (v : Word) (s : State) : Host.Outcome State Fault Refusal :=
  .next ((s.writeOperand fun r => { r with srcAddr := v }).respond .done)

/-- WR.SRC_LEN (R36, R205). -/
def execWrSrcLen (v : Word) (s : State) : Host.Outcome State Fault Refusal :=
  .next ((s.writeOperand fun r => { r with srcLen := v }).respond .done)

/-- WR.DST_ADDR (R37, R205). -/
def execWrDstAddr (v : Word) (s : State) : Host.Outcome State Fault Refusal :=
  .next ((s.writeOperand fun r => { r with dstAddr := v }).respond .done)

/-- WR.DST_LEN (R37, R205). -/
def execWrDstLen (v : Word) (s : State) : Host.Outcome State Fault Refusal :=
  .next ((s.writeOperand fun r => { r with dstLen := v }).respond .done)

/-- WR.WIDTH (R38, R205). -/
def execWrWidth (v : Word) (s : State) : Host.Outcome State Fault Refusal :=
  .next ((s.writeOperand fun r => { r with width := v }).respond .done)

/-- WR.HEIGHT (R38, R205). -/
def execWrHeight (v : Word) (s : State) : Host.Outcome State Fault Refusal :=
  .next ((s.writeOperand fun r => { r with height := v }).respond .done)

/-- WR.TILE_COUNT (R39, R205). -/
def execWrTileCount (v : Word) (s : State) : Host.Outcome State Fault Refusal :=
  .next ((s.writeOperand fun r => { r with tileCount := v }).respond .done)

/-- WR.TILE_INDEX (R39, R205). -/
def execWrTileIndex (v : Word) (s : State) : Host.Outcome State Fault Refusal :=
  .next ((s.writeOperand fun r => { r with tileIndex := v }).respond .done)

/-- WR.OUT_WIDTH (R41, R202). -/
def execWrOutWidth (_ : Word) (s : State) : Host.Outcome State Fault Refusal := .next s.noEffect

/-- WR.OUT_HEIGHT (R41, R202). -/
def execWrOutHeight (_ : Word) (s : State) : Host.Outcome State Fault Refusal := .next s.noEffect

/-- WR.RESERVED (R42, R202); a misaligned offset is a bus error (R200). -/
def execWrReserved (offset : BitVec 8) (_ : Word) (s : State) : Host.Outcome State Fault Refusal :=
  .next (if aligned offset then s.noEffect else s.busError)

end Sys2Proof.Machine
end

