-- ==== Sys2Proof/Machine/Dispatch.lean ====
section
/-! DEFINITION. The one match from an instruction to its meaning. -/

namespace Sys2Proof.Machine

open Sys2Proof

def exec (i : Instr) (s : State) : Host.Outcome State Fault Refusal :=
  match i with
  -- format CMD
  | .decodeTile => Sys2Proof.Machine.execDecodeTile s
  | .compose order swap => Sys2Proof.Machine.execCompose order swap s
  | .decodeCompose order swap => Sys2Proof.Machine.execDecodeCompose order swap s
  -- format BUSOP
  | .rd offset => Sys2Proof.Machine.execRd offset s
  | .wrId v => Sys2Proof.Machine.execWrId v s
  | .wrCtrl v => Sys2Proof.Machine.execWrCtrl v s
  | .wrStatus v => Sys2Proof.Machine.execWrStatus v s
  | .wrCmd v => Sys2Proof.Machine.execWrCmd v s
  | .wrSrcAddr v => Sys2Proof.Machine.execWrSrcAddr v s
  | .wrSrcLen v => Sys2Proof.Machine.execWrSrcLen v s
  | .wrDstAddr v => Sys2Proof.Machine.execWrDstAddr v s
  | .wrDstLen v => Sys2Proof.Machine.execWrDstLen v s
  | .wrWidth v => Sys2Proof.Machine.execWrWidth v s
  | .wrHeight v => Sys2Proof.Machine.execWrHeight v s
  | .wrTileCount v => Sys2Proof.Machine.execWrTileCount v s
  | .wrTileIndex v => Sys2Proof.Machine.execWrTileIndex v s
  | .wrOutWidth v => Sys2Proof.Machine.execWrOutWidth v s
  | .wrOutHeight v => Sys2Proof.Machine.execWrOutHeight v s
  | .wrReserved offset v => Sys2Proof.Machine.execWrReserved offset v s

end Sys2Proof.Machine
end

