-- ==== Sys2Proof/Machine/HostMemory.lean ====
section
/-! DEFINITION. The host's own accesses to system memory (R77, R78, R213), one byte each. -/

namespace Sys2Proof.Machine

/-- Whether the byte at `a` is in the destination range of a running command (R77). -/
def State.inRunningDest (s : State) (a : Nat) : Bool :=
  match s.engine with
  | .idle => false
  | .busy sn => sn.dest.contains a

/-- Whether the byte at `a` is in either range of a running command (R78). -/
def State.inRunningRanges (s : State) (a : Nat) : Bool :=
  match s.engine with
  | .idle => false
  | .busy sn => sn.source.contains a || sn.dest.contains a

/-- A host read (R213): the memory's byte, but a fresh free draw for a destination byte while BUSY (R77, log entry
5). -/
def hostRead (addr : Word) (s : State) : State :=
  if s.inRunningDest addr.toNat then
    { s with resp := .byte (Config.freeByte s.draws), draws := s.draws + 1 }
  else { s with resp := .byte (Memory.read s.mem addr.toNat) }

/-- A host write (R213): the byte is written; in a range of the running command it is also a HostRace (R78, R247, log
entry 7). -/
def hostWrite (addr : Word) (v : Byte) (s : State) : State :=
  let t := { s with mem := Memory.write s.mem addr.toNat v, resp := .done }
  if s.inRunningRanges addr.toNat then t.recordFault .hostRace else t

end Sys2Proof.Machine
end

