-- ==== Sys2Proof/Machine/Turn.lean ====
section
/-! DEFINITION. Whose turn it is, and what it does (R209 to R213): the engine's complete step runs the command of the
snapshot; the host's next action runs the instruction its transaction decodes to, or acts on memory or reset. -/

namespace Sys2Proof.Machine

/-- What one step does. -/
inductive Turn where
  /-- The run has no further meaning (R78). -/
  | stop (f : Fault)
  /-- An instruction runs in a state. -/
  | run (i : Instr) (s : State)
  /-- The state changes without an instruction. -/
  | move (s : State)
deriving DecidableEq, Repr

/-- A transaction on the register window: it decodes to an instruction or is answered with a bus error and no effect
(R200). -/
def busTurn (t : Transaction) (s : State) : Turn :=
  match decodeTransaction t with
  | .ok i => .run i s
  | .error _ => .move s.busError

/-- The transaction that an action makes on the register window (R71, R251). -/
def HostAction.transaction : HostAction → Option Transaction
  | .bus t => some t
  | .busAt b => b.transaction
  | .memRead _ => none
  | .memWrite _ _ => none
  | .hardReset => none

/-- The host's next action. A bus access outside the register window is not the core's to answer (R251; log entry 15). -/
def hostTurn (a : HostAction) (s : State) : Turn :=
  match a with
  | .bus t => busTurn t s
  | .busAt b =>
    match b.transaction with
    | some t => busTurn t s
    | none => .move (s.respond .none)
  | .memRead addr => .move (hostRead addr s)
  | .memWrite addr v => .move (hostWrite addr v s)
  | .hardReset => .move s.hardReset

/-- The engine's turn: the snapshot's command (R209, R211). -/
def engineTurn (sn : Snapshot) (s : State) : Turn := .run sn.cmd.instr s

/-- Whose turn it is. A recorded model fault ends the run (R78, log entry 7). In IDLE the host moves, and with nothing
to do the core waits (R274). In BUSY either may move (R212): a free value says which, and when the host has nothing
left to do the engine completes (R210, log entry 2). -/
def turn (s : State) : Turn :=
  match s.faults, s.engine, s.host with
  | _ :: _, _, _ => .stop .hostRace
  | [], .idle, [] => .move s
  | [], .idle, a :: rest => hostTurn a { s with host := rest }
  | [], .busy sn, [] => engineTurn sn s
  | [], .busy sn, a :: rest =>
    if Config.engineMoves s.draws then engineTurn sn { s with draws := s.draws + 1 }
    else hostTurn a { s with host := rest, draws := s.draws + 1 }

end Sys2Proof.Machine
end

