-- ==== Sys2Proof/Machine/Step.lean ====
section
/-! DEFINITION. One step of the interleaved execution (R212), and the placing of an instruction as the next one. -/

namespace Sys2Proof.Machine

/-- One step: whose turn it is, then its instruction or its move. -/
def step (s : State) : Host.Outcome State Fault Refusal :=
  match turn s with
  | .stop f => .fault f
  | .run i s' => exec i s'
  | .move s' => .next s'

/-- `s` with the instruction whose bits are `w` as the host's next transaction, and the host's turn: the engine idle
and no model fault, or the next step might be the engine's or none (log entries 1 and 16). -/
def State.withFetchWord (s : State) (nbits w : Nat) : State :=
  { s with host := .bus (tableTransaction nbits w) :: s.host, engine := .idle, faults := [] }

end Sys2Proof.Machine
end

