-- ==== Sys2Proof/Safety.lean ====
section
/-! DEFINITION. The terms statements use: the reset values (R48), the invariant of every step, and what two states or
two memories share. -/

namespace Sys2Proof.Machine

/-- The core's part of the state holds its reset values (R48, R270). -/
structure State.AtReset (s : State) : Prop where
  irqEn : s.irqEn = false
  done : s.done = false
  err : s.err = false
  ignwr : s.ignwr = false
  errcode : s.errcode = 0
  errdetail : s.errdetail = 0
  regs : s.regs = ⟨0, 0, 0, 0, 0, 0, 0, 0⟩
  outWidth : s.outWidth = 0
  outHeight : s.outHeight = 0
  engine : s.engine = .idle

/-- The invariant of every step. `busyStatus` is R29 and R41; `noError` and `error` are R33, R230 and R41; `dims` is
R41; `snapshot` is R40, R207 and R208; `memory` is the canonical form of memory (R45); `faultSet` is R47. -/
structure State.Inv (s : State) : Prop where
  busyStatus : s.busy = true → s.done = false ∧ s.err = false ∧ s.outWidth = 0 ∧ s.outHeight = 0
  noError : s.err = false → s.errcode = 0 ∧ s.errdetail = 0
  error : s.err = true →
    (∃ e : CoreError, s.errcode = e.code ∧ s.errdetail = e.detail) ∧ s.outWidth = 0 ∧ s.outHeight = 0
  dims : (s.outWidth = 0 ∧ s.outHeight = 0) ∨
    (legalDim s.outWidth.toNat = true ∧ legalDim s.outHeight.toNat = true)
  snapshot : ∀ sn, s.engine = .busy sn →
    sn.regs = s.regs ∧ sn.cmd.wellFormed = true ∧ checkOperands sn.cmd.op sn.regs = none
  memory : Memory.wf s.mem
  faultSet : s.faults.Nodup

/-- A run that has broken no host duty so far (R47, R78). -/
def State.Safe (s : State) : Prop := s.faults = []

/-- Two memories hold the same byte at every address. -/
def Memory.Same (m m' : Memory) : Prop := ∀ a, Memory.read m' a = Memory.read m a

/-- Two memories hold the same byte at every address outside a range. -/
def Memory.SameOutside (r : ByteRange) (m m' : Memory) : Prop :=
  ∀ a, r.contains a = false → Memory.read m' a = Memory.read m a

/-- Two memories hold the same byte at every address of a range. -/
def Memory.SameInside (r : ByteRange) (m m' : Memory) : Prop :=
  ∀ a, r.contains a = true → Memory.read m' a = Memory.read m a

/-- The operand registers, CTRL, IGNWR, the model faults and the model's own fields but the response are unchanged. -/
structure State.SameSurroundings (s t : State) : Prop where
  irqEn : t.irqEn = s.irqEn
  ignwr : t.ignwr = s.ignwr
  regs : t.regs = s.regs
  faults : t.faults = s.faults
  host : t.host = s.host
  draws : t.draws = s.draws

/-- The columns of R214's table of flag effects. -/
structure FlagSet where
  busy      : Bool
  done      : Bool
  err       : Bool
  ignwr     : Bool
  errcode   : BitVec 4
  errdetail : BitVec 4
  outWidth  : Word
  outHeight : Word
deriving DecidableEq, Repr

/-- The flags of a state. -/
def State.flags (s : State) : FlagSet :=
  { busy := s.busy, done := s.done, err := s.err, ignwr := s.ignwr, errcode := s.errcode, errdetail := s.errdetail,
    outWidth := s.outWidth, outHeight := s.outHeight }

/-- The outcome of a turn, as step runs it. -/
def Turn.outcome : Turn → Host.Outcome State Fault Refusal
  | .stop f => .fault f
  | .run i s => exec i s
  | .move s => .next s

/-- The engine's DECODE_TILE for tiles 0 to `n - 1` of the source buffer in `r`, one after the other, tile `t` into the
decoded tile number `t` of the scratch buffer at `scratch` (R191). -/
def decodeTilesInto (r : OperandRegs) (scratch : Word) : Nat → State → Host.Outcome State Fault Refusal
  | 0, s => .next s
  | n + 1, s =>
    match decodeTilesInto r scratch n s with
    | .next t =>
      let tile := { r with dstAddr := BitVec.ofNat 32 (scratch.toNat + Config.dtileBytes * n),
                           tileIndex := BitVec.ofNat 32 n }
      exec .decodeTile { t with engine := .busy ⟨⟨.decodeTile, .rgba, false⟩, tile⟩ }
    | .fault f => .fault f
    | .refused f => .refused f

end Sys2Proof.Machine
end

