-- ==== Sys2Proof/Certificates/Slice0/Obligations.lean ====
section
/-! DEFINITION. The statements for the provers. Where a conclusion leaves the response `r` open, it is because the
response to a write is the model's own field (log entry 11). No statement rests on the value of a free value of Config. -/

open Sys2Proof Sys2Proof.Machine

/-! ### Encoding -/

/-- Decoding the encoding of a well-formed instruction gives it back (R90, R105, R106). -/
def Obligations.DecodeInvertsEncode : Prop :=
  ∀ i : Instr, i.wellFormed = true → decode (encode i) = .ok i

/-- Every word that decodes to a command is that command's encoding, and a command read from a word is as R208 records
it. -/
def Obligations.CommandWordsEncodeBack : Prop :=
  ∀ (w : Word) (c : Command), decodeCommandWord w = .ok c → encodeCommandWord c = w ∧ c.wellFormed = true

/-- R105: the nine command words, each with its command, are the only legal ones. -/
def Obligations.NineLegalCommandWords : Prop :=
  decodeCommandWord 0x00000001 = .ok ⟨.decodeTile, .rgba, false⟩ ∧
  decodeCommandWord 0x00000002 = .ok ⟨.compose, .rgba, false⟩ ∧
  decodeCommandWord 0x00000012 = .ok ⟨.compose, .bgra, false⟩ ∧
  decodeCommandWord 0x00000022 = .ok ⟨.compose, .rgba, true⟩ ∧
  decodeCommandWord 0x00000032 = .ok ⟨.compose, .bgra, true⟩ ∧
  decodeCommandWord 0x00000003 = .ok ⟨.decodeCompose, .rgba, false⟩ ∧
  decodeCommandWord 0x00000013 = .ok ⟨.decodeCompose, .bgra, false⟩ ∧
  decodeCommandWord 0x00000023 = .ok ⟨.decodeCompose, .rgba, true⟩ ∧
  decodeCommandWord 0x00000033 = .ok ⟨.decodeCompose, .bgra, true⟩ ∧
  ∀ (w : Word) (c : Command), decodeCommandWord w = .ok c →
    w ∈ ([0x01, 0x02, 0x12, 0x22, 0x32, 0x03, 0x13, 0x23, 0x33] : List Word)

/-- R106, R200: a transaction selects an operation exactly when it is 4 bytes wide and aligned; the operation is
well-formed, its encoding is the transaction's descriptor, and a write carries the transaction's value. -/
def Obligations.TransactionsSelectTheirOperation : Prop :=
  ∀ t : Transaction,
    (t.width = 4 ∧ t.offset.toNat % 4 = 0 →
      ∃ i, decodeTransaction t = .ok i ∧ i.wellFormed = true ∧
        encode i = .busop t.descriptor (if t.write then t.value else 0)) ∧
    (¬ (t.width = 4 ∧ t.offset.toNat % 4 = 0) → ∃ e, decodeTransaction t = .error e)

/-- No descriptor selects two rows of the BUSOP table (R106). -/
def Obligations.BusRowsAreDisjoint : Prop :=
  busTable.Pairwise (fun a b => ∀ d : BitVec 9, ¬ (a.selects d = true ∧ b.selects d = true))

/-- Words written out from R105 and R106 decode to the instructions they stand for. -/
def Obligations.SpecWordsDecode : Prop :=
  decodeTableWord 32 0x01 = some .decodeTile ∧
  decodeTableWord 32 0x32 = some (.compose .bgra true) ∧
  decodeTableWord 32 0x13 = some (.decodeCompose .bgra false) ∧
  decodeTableWord 32 0x11 = none ∧
  decodeTableWord 32 0x04 = none ∧
  decodeTableWord 16 0x008 = some (.rd 0x08) ∧
  decodeTableWord 16 0x00A = none ∧
  decodeTableWord 16 0x104 = some (.wrCtrl 0) ∧
  decodeTableWord 16 0x10C = some (.wrCmd 0) ∧
  decodeTableWord 16 0x12C = some (.wrTileIndex 0) ∧
  decodeTableWord 16 0x138 = some (.wrReserved 0x38 0) ∧
  decodeTableWord 16 0x1FC = some (.wrReserved 0xFC 0)

/-! ### The step -/

/-- In IDLE with no model fault, a step takes the host's next action off its list, whichever it is, and does what hostTurn
says of it; a transaction runs the instruction it decodes to (the list is the model's own, log entry 1). -/
def Obligations.StepRunsTheHostsInstruction : Prop :=
  ∀ (s : State) (a : HostAction) (rest : List HostAction),
    s.faults = [] → s.engine = .idle → s.host = a :: rest →
    step s = (hostTurn a { s with host := rest }).outcome ∧
    ∀ t i, a.transaction = some t → decodeTransaction t = .ok i → step s = exec i { s with host := rest }

/-- In BUSY with no model fault and nothing left for the host to do, a step runs the snapshot's command (the model's
choice of when, log entry 2). -/
def Obligations.StepRunsTheEnginesCommand : Prop :=
  ∀ (s : State) (sn : Snapshot), s.faults = [] → s.engine = .busy sn → s.host = [] →
    step s = exec sn.cmd.instr s

/-- In BUSY with no model fault, a step is the engine's or the host's, and nothing else (R212); the draw that decides is
counted (log entry 2). -/
def Obligations.BusyStepIsEitherAgents : Prop :=
  ∀ (s : State) (sn : Snapshot) (a : HostAction) (rest : List HostAction),
    s.faults = [] → s.engine = .busy sn → s.host = a :: rest →
    step s = exec sn.cmd.instr { s with draws := s.draws + 1 } ∨
    step s = (hostTurn a { s with host := rest, draws := s.draws + 1 }).outcome

/-- The instruction of a placed table word is what the next step runs (log entries 1, 3 and 16). -/
def Obligations.PlacedWordRunsNext : Prop :=
  ∀ (s : State) (nbits w : Nat) (i : Instr), decodeTableWord nbits w = some i →
    step (s.withFetchWord nbits w) = exec i { s with engine := .idle, faults := [] }

/-- R200: a transaction that is not 4 bytes wide or not aligned is answered with a bus error, and no state changes, in
either phase. -/
def Obligations.IllFormedTransactionsChangeNothing : Prop :=
  ∀ (s : State) (t : Transaction), ¬ (t.width = 4 ∧ t.offset.toNat % 4 = 0) →
    (hostTurn (.bus t) s).outcome = .next { s with resp := .busError } ∧
    ∀ rest, s.faults = [] → s.engine = .idle → s.host = .bus t :: rest →
      step s = .next { s with host := rest, resp := .busError }

/-- R71, R251: the register window stands at the platform's regBase on the host bus, whatever it is (log entry 15). An
access there is the transaction at its offset; an access anywhere else has no effect on the core or on memory. -/
def Obligations.WindowStandsAtRegBase : Prop :=
  ∀ (s : State) (b : BusAccess),
    (∀ o : BitVec 8, b.address = Config.regBase + o.toNat →
      hostTurn (.busAt b) s
        = hostTurn (.bus { write := b.write, width := b.width, offset := o, value := b.value }) s) ∧
    ((∀ o : BitVec 8, b.address ≠ Config.regBase + o.toNat) →
      ∃ r, (hostTurn (.busAt b) s).outcome = .next { s with resp := r })

/-- After reset the core waits in IDLE for a command (R274): with nothing from the host, a step changes nothing. -/
def Obligations.WaitsInIdle : Prop :=
  ∀ s : State, s.faults = [] → s.engine = .idle → s.host = [] → step s = .next s

/-! ### Reset -/

/-- R48, R270: what reset leaves, with irq 0, no model fault and nothing in memory (the model's own fields: log entries
1, 4, 11 and 12). -/
def Obligations.ResetValues : Prop :=
  State.reset.AtReset ∧ State.reset.irq = false ∧ State.reset.busy = false ∧ State.reset.snapshot = none ∧
  State.reset.faults = [] ∧ State.reset.mem = [] ∧ State.reset.host = [] ∧ State.reset.resp = .none ∧
  State.reset.draws = 0 ∧
  exec (.rd 0x00) State.reset = .next { State.reset with resp := .data 0x45465401 } ∧
  exec (.rd 0x08) State.reset = .next { State.reset with resp := .data 0x00000000 }

/-- The invariant holds after reset. -/
def Obligations.ResetSatisfiesInvariant : Prop := State.reset.Inv

/-- A hard reset, in any phase, puts every piece of core state at its reset value and changes no byte of system memory
(R270; while BUSY log entry 8). -/
def Obligations.HardResetStep : Prop :=
  ∀ s : State, ∃ t, (hostTurn .hardReset s).outcome = .next t ∧ t.AtReset ∧ t.irq = false ∧
    t.mem = s.mem ∧ t.faults = s.faults ∧ t.host = s.host ∧ t.draws = s.draws

/-- R203, R272: a write to CTRL with bit 31 set, in IDLE, resets the core; memory and the model faults are
unchanged. -/
def Obligations.SoftResetInIdle : Prop :=
  ∀ (s : State) (v : Word), s.engine = .idle → v.getLsbD 31 = true →
    ∃ t, exec (.wrCtrl v) s = .next t ∧ t.AtReset ∧ t.irq = false ∧ t.mem = s.mem ∧ t.faults = s.faults ∧
      t.host = s.host ∧ t.draws = s.draws

/-- R272, R273: in BUSY it resets the core too and aborts the command; bytes outside the command's destination range
are unchanged (inside it, nothing is said). -/
def Obligations.SoftResetWhileBusy : Prop :=
  ∀ (s : State) (sn : Snapshot) (v : Word), s.engine = .busy sn → v.getLsbD 31 = true →
    ∃ t, exec (.wrCtrl v) s = .next t ∧ t.AtReset ∧ t.irq = false ∧ Memory.SameOutside sn.dest s.mem t.mem ∧
      t.faults = s.faults ∧ t.host = s.host

/-! ### Register access -/

/-- R201: what a read of each register returns; a read has no side effect and is allowed in every phase; while BUSY the
operand registers are the snapshot's. -/
def Obligations.RegisterReads : Prop :=
  ∀ s : State,
    exec (.rd 0x00) s = .next { s with resp := .data 0x45465401 } ∧
    exec (.rd 0x04) s = .next { s with resp := .data (if s.irqEn then 1 else 0) } ∧
    exec (.rd 0x08) s = .next { s with resp := .data (BitVec.ofNat 32
      (s.busy.toNat + 2 * s.done.toNat + 4 * s.err.toNat + 8 * s.ignwr.toNat + 256 * s.errcode.toNat
        + 4096 * s.errdetail.toNat)) } ∧
    exec (.rd 0x0C) s = .next { s with resp := .data 0 } ∧
    exec (.rd 0x10) s = .next { s with resp := .data s.regs.srcAddr } ∧
    exec (.rd 0x14) s = .next { s with resp := .data s.regs.srcLen } ∧
    exec (.rd 0x18) s = .next { s with resp := .data s.regs.dstAddr } ∧
    exec (.rd 0x1C) s = .next { s with resp := .data s.regs.dstLen } ∧
    exec (.rd 0x20) s = .next { s with resp := .data s.regs.width } ∧
    exec (.rd 0x24) s = .next { s with resp := .data s.regs.height } ∧
    exec (.rd 0x28) s = .next { s with resp := .data s.regs.tileCount } ∧
    exec (.rd 0x2C) s = .next { s with resp := .data s.regs.tileIndex } ∧
    exec (.rd 0x30) s = .next { s with resp := .data s.outWidth } ∧
    exec (.rd 0x34) s = .next { s with resp := .data s.outHeight } ∧
    (∀ o : BitVec 8, 0x38 ≤ o.toNat → o.toNat % 4 = 0 → exec (.rd o) s = .next { s with resp := .data 0 }) ∧
    (s.Inv → ∀ sn, s.snapshot = some sn → s.regs = sn.regs)

/-- RD and WR.RESERVED at operands that no transaction decodes to (the model's choice, log entry 14): a misaligned offset
answers a bus error, and neither that nor WR.RESERVED at an aligned offset below 0x38 changes any state. -/
def Obligations.IllFormedOperandsChangeNothing : Prop :=
  ∀ (s : State) (o : BitVec 8) (v : Word),
    (o.toNat % 4 ≠ 0 → exec (.rd o) s = .next { s with resp := .busError } ∧
      exec (.wrReserved o v) s = .next { s with resp := .busError }) ∧
    (o.toNat % 4 = 0 → o.toNat < 0x38 → ∃ r, exec (.wrReserved o v) s = .next { s with resp := r })

/-- R22: the ID register, in every state; a write is ignored. -/
def Obligations.IdNeverChanges : Prop :=
  ∀ (s : State) (v : Word),
    exec (.rd 0x00) s = .next { s with resp := .data 0x45465401 } ∧
    ∃ r, exec (.wrId v) s = .next { s with resp := r }

/-- R202: writes to read-only and reserved offsets change no state, in either phase. -/
def Obligations.ReadOnlyWritesChangeNothing : Prop :=
  ∀ (s : State) (v : Word),
    (∃ r, exec (.wrId v) s = .next { s with resp := r }) ∧
    (∃ r, exec (.wrOutWidth v) s = .next { s with resp := r }) ∧
    (∃ r, exec (.wrOutHeight v) s = .next { s with resp := r }) ∧
    (∀ o : BitVec 8, 0x38 ≤ o.toNat → o.toNat % 4 = 0 → ∃ r, exec (.wrReserved o v) s = .next { s with resp := r })

/-- R203 with R26: a write to CTRL with bit 31 clear writes IRQ_EN from bit 0 and nothing else, in either phase; the
reserved bits do not matter and read 0. -/
def Obligations.CtrlWriteSetsOnlyIrqEnable : Prop :=
  ∀ (s : State) (v : Word), v.getLsbD 31 = false →
    (∃ r, exec (.wrCtrl v) s = .next { s with irqEn := v.getLsbD 0, resp := r }) ∧
    (∀ w : Word, w.getLsbD 31 = false → w.getLsbD 0 = v.getLsbD 0 → exec (.wrCtrl w) s = exec (.wrCtrl v) s) ∧
    (∀ k, 1 ≤ k → s.ctrlWord.getLsbD k = false)

/-- R204: a write to STATUS clears exactly the flags whose bits are 1; BUSY and all other bits are ignored; in either
phase. -/
def Obligations.StatusWriteClears : Prop :=
  ∀ (s : State) (v : Word), ∃ r, exec (.wrStatus v) s = .next
    { s with
      done := s.done && !v.getLsbD 1
      err := s.err && !v.getLsbD 2
      errcode := if v.getLsbD 2 then 0 else s.errcode
      errdetail := if v.getLsbD 2 then 0 else s.errdetail
      ignwr := s.ignwr && !v.getLsbD 3
      resp := r }

/-- R205: in IDLE each operand register stores all 32 bits of any value, and nothing else changes; in BUSY the write is
discarded and sets IGNWR. -/
def Obligations.OperandRegisterWrites : Prop :=
  ∀ (s : State) (v : Word),
    (∃ r, exec (.wrSrcAddr v) s = .next
      (if s.busy then { s with ignwr := true, resp := r }
       else { s with regs := { s.regs with srcAddr := v }, resp := r })) ∧
    (∃ r, exec (.wrSrcLen v) s = .next
      (if s.busy then { s with ignwr := true, resp := r }
       else { s with regs := { s.regs with srcLen := v }, resp := r })) ∧
    (∃ r, exec (.wrDstAddr v) s = .next
      (if s.busy then { s with ignwr := true, resp := r }
       else { s with regs := { s.regs with dstAddr := v }, resp := r })) ∧
    (∃ r, exec (.wrDstLen v) s = .next
      (if s.busy then { s with ignwr := true, resp := r }
       else { s with regs := { s.regs with dstLen := v }, resp := r })) ∧
    (∃ r, exec (.wrWidth v) s = .next
      (if s.busy then { s with ignwr := true, resp := r }
       else { s with regs := { s.regs with width := v }, resp := r })) ∧
    (∃ r, exec (.wrHeight v) s = .next
      (if s.busy then { s with ignwr := true, resp := r }
       else { s with regs := { s.regs with height := v }, resp := r })) ∧
    (∃ r, exec (.wrTileCount v) s = .next
      (if s.busy then { s with ignwr := true, resp := r }
       else { s with regs := { s.regs with tileCount := v }, resp := r })) ∧
    (∃ r, exec (.wrTileIndex v) s = .next
      (if s.busy then { s with ignwr := true, resp := r }
       else { s with regs := { s.regs with tileIndex := v }, resp := r }))

/-- R280: while BUSY the operand registers and CMD are frozen: a write to one is discarded and sets IGNWR, and nothing
else changes. -/
def Obligations.WritesWhileBusyAreDiscarded : Prop :=
  ∀ (s : State) (sn : Snapshot) (v : Word) (i : Instr), s.engine = .busy sn →
    i ∈ [.wrSrcAddr v, .wrSrcLen v, .wrDstAddr v, .wrDstLen v, .wrWidth v, .wrHeight v, .wrTileCount v,
      .wrTileIndex v, .wrCmd v] →
    ∃ r, exec i s = .next { s with ignwr := true, resp := r }

/-! ### Issuing a command -/

/-- R238: the check and its order, on unbounded integers, bit by bit and test by test. -/
def Obligations.CheckOrder : Prop :=
  ∀ (v : Word) (r : OperandRegs),
    let op := v.toNat % 16
    let legal := fun w : Nat => w % 512 = 0 ∧ 512 ≤ w ∧ w ≤ 8192
    let per := if op = 2 then 1048576 else 131072
    let start := if op = 1 then r.srcAddr.toNat + 131072 * r.tileIndex.toNat else r.srcAddr.toNat
    let size := if op = 1 then 131072 else per * r.tileCount.toNat
    let stop := if op = 1 then 131072 * (r.tileIndex.toNat + 1) else per * r.tileCount.toNat
    let need := if op = 1 then 1048576 else r.width.toNat * r.height.toNat * 4
    check v r =
      if op ≠ 1 ∧ op ≠ 2 ∧ op ≠ 3 then .error .illegalOpcode
      else if op = 1 ∧ v.toNat / 16 ≠ 0 then .error .illegalReserved
      else if op ≠ 1 ∧ v.toNat / 64 ≠ 0 then .error .illegalReserved
      else if op ≠ 1 ∧ ¬ legal r.width.toNat then .error .malformedWidth
      else if op ≠ 1 ∧ ¬ legal r.height.toNat then .error .malformedHeight
      else if op ≠ 1 ∧ r.tileCount.toNat ≠ (r.width.toNat / 512) * (r.height.toNat / 512) then
        .error .malformedCount
      else if stop > r.srcLen.toNat then .error .malformedSource
      else if r.srcAddr.toNat + stop > 2 ^ 32 then .error .rangeSource
      else if need > r.dstLen.toNat then .error .allocationFailure
      else if r.dstAddr.toNat + need > 2 ^ 32 then .error .rangeDestination
      else if start < r.dstAddr.toNat + need ∧ r.dstAddr.toNat < start + size then .error .overlap
      else .ok
        { op := if op = 1 then .decodeTile else if op = 2 then .compose else .decodeCompose
          order := if v.toNat / 16 % 2 = 1 then .bgra else .rgba
          swap := decide (v.toNat / 32 % 2 = 1) }

/-- R230: the code and the detail of each error. -/
def Obligations.ErrorCodes : Prop :=
  (CoreError.allocationFailure.code = 1 ∧ CoreError.allocationFailure.detail = 0) ∧
  (CoreError.malformedWidth.code = 2 ∧ CoreError.malformedWidth.detail = 1) ∧
  (CoreError.malformedHeight.code = 2 ∧ CoreError.malformedHeight.detail = 2) ∧
  (CoreError.malformedCount.code = 2 ∧ CoreError.malformedCount.detail = 3) ∧
  (CoreError.malformedSource.code = 2 ∧ CoreError.malformedSource.detail = 4) ∧
  (CoreError.illegalOpcode.code = 3 ∧ CoreError.illegalOpcode.detail = 1) ∧
  (CoreError.illegalReserved.code = 3 ∧ CoreError.illegalReserved.detail = 2) ∧
  (CoreError.rangeSource.code = 4 ∧ CoreError.rangeSource.detail = 1) ∧
  (CoreError.rangeDestination.code = 4 ∧ CoreError.rangeDestination.detail = 2) ∧
  (CoreError.overlap.code = 5 ∧ CoreError.overlap.detail = 0)

/-- R236: a rejection in IDLE reports the error and changes nothing else: no operand register, not CTRL or IGNWR, no
byte of memory, and the phase stays IDLE. -/
def Obligations.RejectionReportsTheError : Prop :=
  ∀ (s : State) (v : Word) (e : CoreError), s.engine = .idle → check v s.regs = .error e →
    ∃ r, exec (.wrCmd v) s = .next
      { s with done := true, err := true, errcode := e.code, errdetail := e.detail, outWidth := 0, outHeight := 0,
               resp := r }

/-- R93, R231: an illegal command word written in IDLE is rejected with ERRCODE 3, detail 1 for a reserved OPCODE and
else detail 2 for a reserved bit, whatever the registers hold. -/
def Obligations.IllegalWordsAreRejected : Prop :=
  ∀ (s : State) (v : Word), s.engine = .idle →
    (v.toNat % 16 ∉ [1, 2, 3] →
      ∃ r, exec (.wrCmd v) s = .next
        { s with done := true, err := true, errcode := 3, errdetail := 1, outWidth := 0, outHeight := 0, resp := r }) ∧
    ((v.toNat % 16 = 1 ∧ v.toNat / 16 ≠ 0) ∨ (v.toNat % 16 ∈ [2, 3] ∧ v.toNat / 64 ≠ 0) →
      ∃ r, exec (.wrCmd v) s = .next
        { s with done := true, err := true, errcode := 3, errdetail := 2, outWidth := 0, outHeight := 0, resp := r })

/-- R208: an acceptance in IDLE latches the command and the operand registers, enters BUSY and clears DONE, ERR, the
codes and the output dimensions; IGNWR is not changed and irq falls to 0. -/
def Obligations.AcceptanceLatchesTheSnapshot : Prop :=
  ∀ (s : State) (v : Word) (c : Command), s.engine = .idle → check v s.regs = .ok c →
    ((c.op = .decodeTile ↔ v.toNat % 16 = 1) ∧ (c.op = .compose ↔ v.toNat % 16 = 2) ∧
      (c.op = .decodeCompose ↔ v.toNat % 16 = 3) ∧ (c.order = .bgra ↔ v.getLsbD 4 = true) ∧
      c.swap = v.getLsbD 5 ∧ (c.op = .decodeTile → c.order = .rgba ∧ c.swap = false)) ∧
    ∃ t, exec (.wrCmd v) s = .next t ∧ t.busy = true ∧ t.snapshot = some { cmd := c, regs := s.regs } ∧ t.irq = false ∧
      t = { s with engine := .busy { cmd := c, regs := s.regs }, done := false, err := false, errcode := 0,
                   errdetail := 0, outWidth := 0, outHeight := 0, resp := t.resp }

/-- In IDLE a command is issued by the write of its word to CMD (R103, R206; log entry 3). -/
def Obligations.CommandsAreIssuedByTheirWord : Prop :=
  ∀ (s : State) (order : ChannelOrder) (swap : Bool), s.engine = .idle →
    exec .decodeTile s = exec (.wrCmd 0x00000001) s ∧
    exec (.compose order swap) s
      = exec (.wrCmd (0x2 + (if order = .bgra then 0x10 else 0) + (if swap then 0x20 else 0))) s ∧
    exec (.decodeCompose order swap) s
      = exec (.wrCmd (0x3 + (if order = .bgra then 0x10 else 0) + (if swap then 0x20 else 0))) s

/-! ### The commands complete -/

/-- R140 with R132 and R141: the engine's DECODE_TILE writes every decoded pixel of the tile to its place and no other
byte, sets OUT_WIDTH and OUT_HEIGHT to 512 and DONE, and enters IDLE; the byte order is Config.blockByteOrder (log
entry 10). -/
def Obligations.DecodeTileCompletes : Prop :=
  ∀ (s : State) (sn : Snapshot), s.engine = .busy sn →
    sn.regs.srcAddr.toNat + 131072 * sn.regs.tileIndex.toNat + 131072 ≤ 2 ^ 32 →
    sn.regs.dstAddr.toNat + 1048576 ≤ 2 ^ 32 →
    ∃ t, exec .decodeTile s = .next t ∧
      (∀ bx by_ xb yb : Nat, bx < 128 → by_ < 128 → xb < 4 → yb < 4 →
        let tb := sn.regs.srcAddr.toNat + 131072 * sn.regs.tileIndex.toNat
        let p := decodeBlockAt Config.blockByteOrder s.mem (tb + by_ * 1024 + bx * 8) xb yb
        let at_ := sn.regs.dstAddr.toNat + 4 * ((by_ * 4 + yb) * 512 + (bx * 4 + xb))
        Memory.read t.mem at_ = p.r ∧ Memory.read t.mem (at_ + 1) = p.g ∧
        Memory.read t.mem (at_ + 2) = p.b ∧ Memory.read t.mem (at_ + 3) = 255) ∧
      Memory.SameOutside ⟨sn.regs.dstAddr.toNat, 1048576⟩ s.mem t.mem ∧
      t.outWidth = 512 ∧ t.outHeight = 512 ∧ t.engine = .idle ∧ t.done = true ∧ t.err = s.err

/-- R175 with R170 and R173: the engine's COMPOSE writes every pixel of the image and no other byte. -/
def Obligations.ComposeCompletes : Prop :=
  ∀ (s : State) (sn : Snapshot) (order : ChannelOrder) (swap : Bool), s.engine = .busy sn →
    sn.regs.srcAddr.toNat + 1048576 * sn.regs.tileCount.toNat ≤ 2 ^ 32 →
    sn.regs.dstAddr.toNat + sn.regs.width.toNat * sn.regs.height.toNat * 4 ≤ 2 ^ 32 →
    ∃ t, exec (.compose order swap) s = .next t ∧
      (let ws := if swap then sn.regs.height.toNat else sn.regs.width.toNat
       let hs := if swap then sn.regs.width.toNat else sn.regs.height.toNat
       ∀ x y : Nat, x < ws → y < hs →
        let x' := (x % 512 + 8) % 512
        let y' := if x % 512 > 503 then (y % 512 + 4) % 512 else y % 512
        let from_ := sn.regs.srcAddr.toNat + 1048576 * ((y / 512) * (ws / 512) + x / 512) + 4 * (y' * 512 + x')
        let at_ := sn.regs.dstAddr.toNat + 4 * (y * ws + x)
        Memory.read t.mem at_ = Memory.read s.mem (from_ + if order = .bgra then 2 else 0) ∧
        Memory.read t.mem (at_ + 1) = Memory.read s.mem (from_ + 1) ∧
        Memory.read t.mem (at_ + 2) = Memory.read s.mem (from_ + if order = .bgra then 0 else 2) ∧
        Memory.read t.mem (at_ + 3) = 255) ∧
      Memory.SameOutside ⟨sn.regs.dstAddr.toNat, sn.regs.width.toNat * sn.regs.height.toNat * 4⟩ s.mem t.mem ∧
      t.outWidth = (if swap then sn.regs.height else sn.regs.width) ∧
      t.outHeight = (if swap then sn.regs.width else sn.regs.height) ∧
      t.engine = .idle ∧ t.done = true ∧ t.err = s.err

/-- R190 with R192: the engine's DECODE_COMPOSE writes every pixel of the image from its block and no other byte; the
byte order is Config.blockByteOrder (log entry 10). -/
def Obligations.DecodeComposeCompletes : Prop :=
  ∀ (s : State) (sn : Snapshot) (order : ChannelOrder) (swap : Bool), s.engine = .busy sn →
    sn.regs.srcAddr.toNat + 131072 * sn.regs.tileCount.toNat ≤ 2 ^ 32 →
    sn.regs.dstAddr.toNat + sn.regs.width.toNat * sn.regs.height.toNat * 4 ≤ 2 ^ 32 →
    ∃ t, exec (.decodeCompose order swap) s = .next t ∧
      (let ws := if swap then sn.regs.height.toNat else sn.regs.width.toNat
       let hs := if swap then sn.regs.width.toNat else sn.regs.height.toNat
       ∀ x y : Nat, x < ws → y < hs →
        let x' := (x % 512 + 8) % 512
        let y' := if x % 512 > 503 then (y % 512 + 4) % 512 else y % 512
        let tile := (y / 512) * (ws / 512) + x / 512
        let block := sn.regs.srcAddr.toNat + 131072 * tile + (y' / 4) * 1024 + (x' / 4) * 8
        let p := decodeBlockAt Config.blockByteOrder s.mem block (x' % 4) (y' % 4)
        let at_ := sn.regs.dstAddr.toNat + 4 * (y * ws + x)
        Memory.read t.mem at_ = (if order = .bgra then p.b else p.r) ∧
        Memory.read t.mem (at_ + 1) = p.g ∧
        Memory.read t.mem (at_ + 2) = (if order = .bgra then p.r else p.b) ∧
        Memory.read t.mem (at_ + 3) = 255) ∧
      Memory.SameOutside ⟨sn.regs.dstAddr.toNat, sn.regs.width.toNat * sn.regs.height.toNat * 4⟩ s.mem t.mem ∧
      t.outWidth = (if swap then sn.regs.height else sn.regs.width) ∧
      t.outHeight = (if swap then sn.regs.width else sn.regs.height) ∧
      t.engine = .idle ∧ t.done = true ∧ t.err = s.err

/-- R237, R242: a command that was accepted completes, without error. -/
def Obligations.AcceptedCommandAlwaysCompletes : Prop :=
  ∀ (s : State) (sn : Snapshot), s.Inv → s.engine = .busy sn →
    ∃ t, exec sn.cmd.instr s = .next t ∧ t.engine = .idle ∧ t.done = true ∧ t.err = false ∧ t.errcode = 0 ∧
      t.errdetail = 0

/-- R19, R61: what a command writes, and the dimensions it reports, depend on the snapshot and on the bytes of its
source range alone. -/
def Obligations.ResultDependsOnSourceBytesOnly : Prop :=
  ∀ (s s' : State) (sn : Snapshot), s.engine = .busy sn → s'.engine = .busy sn →
    checkOperands sn.cmd.op sn.regs = none → Memory.SameInside sn.source s.mem s'.mem →
    ∃ t t', exec sn.cmd.instr s = .next t ∧ exec sn.cmd.instr s' = .next t' ∧
      Memory.SameInside sn.dest t.mem t'.mem ∧ t'.outWidth = t.outWidth ∧ t'.outHeight = t.outHeight

/-- R191: for every memory and every operands that pass the checks, DECODE_COMPOSE writes the destination bytes that
DECODE_TILE of each tile into a scratch buffer and COMPOSE from that buffer write. -/
def Obligations.DecodeComposeEqualsDecodeThenCompose : Prop :=
  ∀ (s : State) (r : OperandRegs) (scratch : Word) (order : ChannelOrder) (swap : Bool),
    checkOperands .decodeCompose r = none →
    scratch.toNat + 1048576 * r.tileCount.toNat ≤ 2 ^ 32 →
    (sourceRange .decodeCompose r).overlaps ⟨scratch.toNat, 1048576 * r.tileCount.toNat⟩ = false →
    ∃ t mid u,
      exec (.decodeCompose order swap) { s with engine := .busy ⟨⟨.decodeCompose, order, swap⟩, r⟩ } = .next t ∧
      decodeTilesInto r scratch r.tileCount.toNat s = .next mid ∧
      exec (.compose order swap)
        { mid with engine := .busy ⟨⟨.compose, order, swap⟩, { r with srcAddr := scratch }⟩ } = .next u ∧
      Memory.SameInside (destRange .decodeCompose r) t.mem u.mem ∧
      u.outWidth = t.outWidth ∧ u.outHeight = t.outHeight

/-- R171, R172, R173: for every legal geometry the byte writes of R172's loop nest have distinct addresses, and after
them every byte of the image is the closed form's and every other byte is unchanged. -/
def Obligations.LoopNestGivesTheClosedForm : Prop :=
  ∀ (tile : Nat → Nat → Pixel) (w h : Nat) (order : ChannelOrder) (swap : Bool) (dst : Nat) (m : Memory),
    legalDim w = true → legalDim h = true →
    ((composeWrites tile w h order swap dst).map Prod.fst).Nodup ∧
    ∀ a, Memory.read (Memory.writeAll m (composeWrites tile w h order swap dst)) a =
      if dst ≤ a ∧ a < dst + w * h * 4 then imageByte tile order (widthStride w h swap) (a - dst)
      else Memory.read m a

/-! ### The datapath -/

/-- R123 and R134: the expansion of every code, as the nearest integer to `v*255/31` and `v*255/63`, its extreme
values, and its largest intermediates. -/
def Obligations.ExpansionRounds : Prop :=
  (∀ v, v < 32 → exp5 v = (v * 527 + 23) / 64 ∧ exp5 v = (2 * v * 255 + 31) / 62 ∧ exp5 v ≤ 255 ∧
    v * 527 + 23 ≤ 16360) ∧
  (∀ v, v < 64 → exp6 v = (v * 259 + 33) / 64 ∧ exp6 v = (2 * v * 255 + 63) / 126 ∧ exp6 v ≤ 255 ∧
    v * 259 + 33 ≤ 16350) ∧
  exp5 0 = 0 ∧ exp5 31 = 255 ∧ exp6 0 = 0 ∧ exp6 63 = 255

/-- R126, R127, R133: each channel of each palette colour is the exact integer of the formula, for every pair of
expanded colours. -/
def Obligations.PalettesAreExact : Prop :=
  ∀ p0 p1 : Rgb,
    (palette4 p0 p1).c0 = p0 ∧ (palette4 p0 p1).c1 = p1 ∧
    (palette4 p0 p1).c2.r.toNat = (2 * p0.r.toNat + p1.r.toNat) / 3 ∧
    (palette4 p0 p1).c2.g.toNat = (2 * p0.g.toNat + p1.g.toNat) / 3 ∧
    (palette4 p0 p1).c2.b.toNat = (2 * p0.b.toNat + p1.b.toNat) / 3 ∧
    (palette4 p0 p1).c3.r.toNat = (p0.r.toNat + 2 * p1.r.toNat) / 3 ∧
    (palette4 p0 p1).c3.g.toNat = (p0.g.toNat + 2 * p1.g.toNat) / 3 ∧
    (palette4 p0 p1).c3.b.toNat = (p0.b.toNat + 2 * p1.b.toNat) / 3 ∧
    (palette3 p0 p1).c0 = p0 ∧ (palette3 p0 p1).c1 = p1 ∧
    (palette3 p0 p1).c2.r.toNat = (p0.r.toNat + p1.r.toNat) / 2 ∧
    (palette3 p0 p1).c2.g.toNat = (p0.g.toNat + p1.g.toNat) / 2 ∧
    (palette3 p0 p1).c2.b.toNat = (p0.b.toNat + p1.b.toNat) / 2 ∧
    (palette3 p0 p1).c3 = ⟨0, 0, 0⟩

/-- R128 and R129: every decoded pixel is the palette colour of its 2-bit selector, at bit offset `(yb*4 + xb)*2` of the
codes (R124), with alpha 255; selector 0 is color0 in both modes. -/
def Obligations.BlockPixelsFollowTheirSelectors : Prop :=
  ∀ (color0 color1 : BitVec 16) (codes : BitVec 32) (xb yb : Nat), xb < 4 → yb < 4 →
    let sel := codes.toNat / 2 ^ ((yb * 4 + xb) * 2) % 4
    let pal := if color1.toNat < color0.toNat then palette4 (to888 color0) (to888 color1)
      else palette3 (to888 color0) (to888 color1)
    let c := if sel = 0 then pal.c0 else if sel = 1 then pal.c1 else if sel = 2 then pal.c2 else pal.c3
    decodeBlock color0 color1 codes xb yb = ⟨c.r, c.g, c.b, 255⟩ ∧
    (sel = 0 → c = to888 color0)

/-- R122, R123 with R95 (log entry 10): each channel of an expanded colour is the exact expansion of its field. -/
def Obligations.ExpandedColourIsExact : Prop :=
  ∀ c : BitVec 16,
    (to888 c).r.toNat = exp5 (c.toNat / 2048) ∧ (to888 c).g.toNat = exp6 (c.toNat / 32 % 64) ∧
    (to888 c).b.toNat = exp5 (c.toNat % 32)

/-- R62, R94, R101: the fields of a block from its eight bytes, in both byte orders and at any address. -/
def Obligations.BlockFieldsFromBytes : Prop :=
  ∀ (m : Memory) (a : Nat),
    color0At .little m a = Memory.read m (a + 1) ++ Memory.read m a ∧
    color1At .little m a = Memory.read m (a + 3) ++ Memory.read m (a + 2) ∧
    codesAt .little m a
      = Memory.read m (a + 7) ++ Memory.read m (a + 6) ++ Memory.read m (a + 5) ++ Memory.read m (a + 4) ∧
    color0At .big m a = Memory.read m a ++ Memory.read m (a + 1) ∧
    color1At .big m a = Memory.read m (a + 2) ++ Memory.read m (a + 3) ∧
    codesAt .big m a
      = Memory.read m (a + 4) ++ Memory.read m (a + 5) ++ Memory.read m (a + 6) ++ Memory.read m (a + 7)

/-- R130: the blocks and their pixels give each pixel number of the tile exactly once, and the decoded tile has at that
number the pixel of the block (R132). -/
def Obligations.TilePixelNumbersAreABijection : Prop :=
  (∀ bx by_ xb yb : Nat, bx < 128 → by_ < 128 → xb < 4 → yb < 4 → tilePixelNumber bx by_ xb yb < 262144) ∧
  (∀ i, i < 262144 → ∃ bx by_ xb yb : Nat, bx < 128 ∧ by_ < 128 ∧ xb < 4 ∧ yb < 4 ∧
    tilePixelNumber bx by_ xb yb = i ∧
    ∀ bx' by' xb' yb' : Nat, bx' < 128 → by' < 128 → xb' < 4 → yb' < 4 → tilePixelNumber bx' by' xb' yb' = i →
      bx' = bx ∧ by' = by_ ∧ xb' = xb ∧ yb' = yb) ∧
  (∀ (order : ByteOrder) (m : Memory) (tb bx by_ xb yb : Nat), bx < 128 → by_ < 128 → xb < 4 → yb < 4 →
    decodeTilePixel order m tb (tilePixelNumber bx by_ xb yb) = decodeBlockAt order m (blockAddr tb bx by_) xb yb)

/-- R166: the remap is a bijection of the tile, and unmap is its inverse on both sides. -/
def Obligations.RemapIsABijection : Prop :=
  ∀ x y : Nat, x < 512 → y < 512 →
    (remap (x, y)).1 < 512 ∧ (remap (x, y)).2 < 512 ∧ unmap (remap (x, y)) = (x, y) ∧
    (unmap (x, y)).1 < 512 ∧ (unmap (x, y)).2 < 512 ∧ remap (unmap (x, y)) = (x, y)

/-- R171: over all cells and positions the destination number takes every value below `W*H` exactly once, with and
without swap. -/
def Obligations.DestinationNumbersCoverTheImage : Prop :=
  ∀ (w h : Nat) (swap : Bool), legalDim w = true → legalDim h = true →
    let ws := widthStride w h swap
    let rows := heightStride w h swap / 512
    let cols := ws / 512
    rows * cols = (w / 512) * (h / 512) ∧
    (∀ row col x y, row < rows → col < cols → x < 512 → y < 512 → destNumber ws row col x y < w * h) ∧
    (∀ d, d < w * h → ∃ row col x y, row < rows ∧ col < cols ∧ x < 512 ∧ y < 512 ∧ destNumber ws row col x y = d ∧
      ∀ row' col' x' y', row' < rows → col' < cols → x' < 512 → y' < 512 → destNumber ws row' col' x' y' = d →
        row' = row ∧ col' = col ∧ x' = x ∧ y' = y)

/-! ### The host's memory accesses and races -/

/-- R213, R77: a host read returns the memory's byte, but in BUSY nothing is said of a byte in the destination range;
memory and the core's state never change. -/
def Obligations.HostMemoryReads : Prop :=
  ∀ (s : State) (a : Word),
    (∃ t, (hostTurn (.memRead a) s).outcome = .next t ∧
      t = { s with resp := t.resp, draws := t.draws }) ∧
    ((∀ sn, s.engine = .busy sn → sn.dest.contains a.toNat = false) →
      (hostTurn (.memRead a) s).outcome = .next { s with resp := .byte (Memory.read s.mem a.toNat) })

/-- R213, R78: a host write changes memory at its byte only and no register; in BUSY, in either range of the running
command, it records HostRace, and otherwise it records nothing. -/
def Obligations.HostMemoryWrites : Prop :=
  ∀ (s : State) (a : Word) (v : Byte), ∃ t, (hostTurn (.memWrite a v) s).outcome = .next t ∧
    Memory.read t.mem a.toNat = v ∧ (∀ b, b ≠ a.toNat → Memory.read t.mem b = Memory.read s.mem b) ∧
    t = { s with mem := t.mem, faults := t.faults, resp := t.resp } ∧
    ((∃ sn, s.engine = .busy sn ∧ (sn.source.contains a.toNat = true ∨ sn.dest.contains a.toNat = true)) →
      ModelFault.hostRace ∈ t.faults) ∧
    ((∀ sn, s.engine = .busy sn → sn.source.contains a.toNat = false ∧ sn.dest.contains a.toNat = false) →
      t.faults = s.faults)

/-- After a HostRace the run has no further meaning (R78): the model stops with a fault of its own (log entry 7). -/
def Obligations.RaceEndsTheRun : Prop :=
  ∀ s : State, s.faults ≠ [] → step s = .fault .hostRace

/-- R47: no step removes a model fault. -/
def Obligations.ModelFaultsPersist : Prop :=
  ∀ (s t : State) (i : Instr) (a : HostAction) (f : ModelFault), f ∈ s.faults →
    (exec i s = .next t ∨ (hostTurn a s).outcome = .next t ∨ step s = .next t) → f ∈ t.faults

/-! ### Invariants and rules of the whole machine -/

/-- Every step keeps the invariant: the STATUS rules of R29, R31, R33 and R41, the snapshot rules of R40 and R207, and
the canonical form of memory. -/
def Obligations.StepKeepsInvariant : Prop :=
  ∀ s t : State, s.Inv → step s = .next t → t.Inv

/-- R61, R141, R176, R213, R273: a step changes a byte of memory only if the host writes that byte, or it is in the
destination range of the running command. -/
def Obligations.MemoryChangesOnlyInTheDestination : Prop :=
  ∀ (s t : State) (a : Nat), step s = .next t → Memory.read t.mem a ≠ Memory.read s.mem a →
    (∃ addr v rest, s.host = .memWrite addr v :: rest ∧ addr.toNat = a) ∨
    (∃ sn, s.engine = .busy sn ∧ sn.dest.contains a = true)

/-- R40, R280: from one BUSY state to the next, by a step or by any action of the host, the snapshot, the operand registers
and the output dimensions do not change. -/
def Obligations.FrozenWhileBusy : Prop :=
  ∀ (s t : State) (a : HostAction), (hostTurn a s).outcome = .next t ∨ step s = .next t →
    s.busy = true → t.busy = true →
    t.engine = s.engine ∧ t.regs = s.regs ∧ t.outWidth = s.outWidth ∧ t.outHeight = s.outHeight

/-- R43, R208, R209: the phase enters BUSY only by a CMD write that passes the check, and leaves it only by the engine's
completion of the snapshot's command or by a hard or soft reset. -/
def Obligations.PhaseChangesOnlyAsStated : Prop :=
  ∀ s t : State, step s = .next t →
    (s.busy = false → t.busy = true →
      ∃ a rest tr v c, s.host = a :: rest ∧ a.transaction = some tr ∧ decodeTransaction tr = .ok (.wrCmd v) ∧
        check v s.regs = .ok c ∧ t.snapshot = some ⟨c, s.regs⟩) ∧
    (s.busy = true → t.busy = false →
      (∃ sn d, s.engine = .busy sn ∧ exec sn.cmd.instr { s with draws := d } = .next t ∧ t.done = true) ∨
      (∃ a rest, s.host = a :: rest ∧ t.AtReset ∧
        (a = .hardReset ∨
          ∃ tr v, a.transaction = some tr ∧ decodeTransaction tr = .ok (.wrCtrl v) ∧ v.getLsbD 31 = true)))

/-- R244: irq is IRQ_EN and DONE in every state; it is 0 while BUSY and after each of its clearing events: the write of 1
to STATUS bit 1, the acceptance of a command, the write of 0 to IRQ_EN, a soft reset and a hard reset. -/
def Obligations.InterruptOutput : Prop :=
  (∀ s : State, (s.irq = true ↔ s.irqEn = true ∧ s.done = true)) ∧
  (∀ s : State, s.Inv → s.busy = true → s.irq = false) ∧
  (∀ (s t : State) (v : Word), v.getLsbD 1 = true → exec (.wrStatus v) s = .next t → t.irq = false) ∧
  (∀ (s t : State) (v : Word), v.getLsbD 31 = false → exec (.wrCtrl v) s = .next t →
    t.irq = (v.getLsbD 0 && s.done)) ∧
  (∀ (s t : State) (v : Word), v.getLsbD 31 = true → exec (.wrCtrl v) s = .next t → t.irq = false) ∧
  (∀ (s t : State) (v : Word) (c : Command), s.engine = .idle → check v s.regs = .ok c → exec (.wrCmd v) s = .next t →
    t.irq = false) ∧
  (∀ s t : State, (hostTurn .hardReset s).outcome = .next t → t.irq = false)

/-- R210, R281: from a BUSY state, after at most one step more than the host has actions left, the engine has completed
or a reset has come, unless the host broke a duty. -/
def Obligations.BusyEndsOnceTheHostIsDone : Prop :=
  ∀ s : State, s.Inv → s.busy = true →
    ∃ k, k ≤ s.host.length + 1 ∧
      (core.run k s = .fault .hostRace ∨ ∃ t, core.run k s = .next t ∧ t.busy = false)

/-! ### Frames -/

/-- What a command leaves unchanged: issued in IDLE, everything but the flags of R214; completing in BUSY, everything
but its destination bytes, DONE, the phase and the output dimensions. -/
def Obligations.CommandFrame : Prop :=
  ∀ (s t : State) (i : Instr) (op : Op) (order : ChannelOrder) (swap : Bool),
    (i = .decodeTile ∧ op = .decodeTile) ∨ (i = .compose order swap ∧ op = .compose) ∨
      (i = .decodeCompose order swap ∧ op = .decodeCompose) →
    exec i s = .next t →
    s.SameSurroundings t ∧
    (s.engine = .idle → Memory.Same s.mem t.mem) ∧
    (∀ sn, s.engine = .busy sn →
      Memory.SameOutside (destRange op sn.regs) s.mem t.mem ∧ t.err = s.err ∧ t.errcode = s.errcode ∧
        t.errdetail = s.errdetail ∧ t.resp = s.resp)

/-- What a bus operation leaves unchanged: memory, but for a soft reset while BUSY; the operand registers, but for the
one it writes and a soft reset; CTRL but for WR.CTRL; the model faults and the host's list always. -/
def Obligations.BusOperationFrame : Prop :=
  ∀ (s t : State) (i : Instr), (∀ e, encode i ≠ .command e) → exec i s = .next t →
    t.faults = s.faults ∧ t.host = s.host ∧
    ((∀ v, i = .wrCtrl v → v.getLsbD 31 = false) →
      Memory.Same s.mem t.mem ∧ t.draws = s.draws ∧
      ((∀ v, i ≠ .wrCtrl v) → t.irqEn = s.irqEn) ∧
      ((∀ v, i ≠ .wrSrcAddr v) → t.regs.srcAddr = s.regs.srcAddr) ∧
      ((∀ v, i ≠ .wrSrcLen v) → t.regs.srcLen = s.regs.srcLen) ∧
      ((∀ v, i ≠ .wrDstAddr v) → t.regs.dstAddr = s.regs.dstAddr) ∧
      ((∀ v, i ≠ .wrDstLen v) → t.regs.dstLen = s.regs.dstLen) ∧
      ((∀ v, i ≠ .wrWidth v) → t.regs.width = s.regs.width) ∧
      ((∀ v, i ≠ .wrHeight v) → t.regs.height = s.regs.height) ∧
      ((∀ v, i ≠ .wrTileCount v) → t.regs.tileCount = s.regs.tileCount) ∧
      ((∀ v, i ≠ .wrTileIndex v) → t.regs.tileIndex = s.regs.tileIndex) ∧
      ((∀ v, i ≠ .wrCmd v) → t.engine = s.engine))

/-- R214: the flag effects, operation by operation. -/
def Obligations.FlagEffects : Prop :=
  ∀ (s t : State) (i : Instr), exec i s = .next t →
    match i with
    | .rd _ | .wrId _ | .wrOutWidth _ | .wrOutHeight _ | .wrReserved _ _ => t.flags = s.flags
    | .wrCtrl v => t.flags = if v.getLsbD 31 then ⟨false, false, false, false, 0, 0, 0, 0⟩ else s.flags
    | .wrStatus v => t.flags =
        { s.flags with
          done := s.done && !v.getLsbD 1
          err := s.err && !v.getLsbD 2
          ignwr := s.ignwr && !v.getLsbD 3
          errcode := if v.getLsbD 2 then 0 else s.errcode
          errdetail := if v.getLsbD 2 then 0 else s.errdetail }
    | .wrSrcAddr _ | .wrSrcLen _ | .wrDstAddr _ | .wrDstLen _ | .wrWidth _ | .wrHeight _ | .wrTileCount _
    | .wrTileIndex _ => t.flags = { s.flags with ignwr := s.ignwr || s.busy }
    | .wrCmd v => t.flags =
        if s.busy then { s.flags with ignwr := true }
        else match check v s.regs with
          | .error e => ⟨false, true, true, s.ignwr, e.code, e.detail, 0, 0⟩
          | .ok _ => ⟨true, false, false, s.ignwr, 0, 0, 0, 0⟩
    | .decodeTile => s.busy = true →
        t.flags = { s.flags with busy := false, done := true, outWidth := 512, outHeight := 512 }
    | .compose _ swap | .decodeCompose _ swap => ∀ sn, s.engine = .busy sn →
        t.flags = { s.flags with
          busy := false, done := true
          outWidth := if swap then sn.regs.height else sn.regs.width
          outHeight := if swap then sn.regs.width else sn.regs.height }
end

