-- ==== Sys2Proof/Laws/Check.lean ====
section
/-! SUPPORT. The laws of the command word and of the acceptance checks: what a decoded word and a passed check say. -/

namespace Sys2Proof.Machine

theorem opOfField_some {f : BitVec 4} {op : Op} (h : opOfField f = some op) :
    (f = 1 ∧ op = .decodeTile) ∨ (f = 2 ∧ op = .compose) ∨ (f = 3 ∧ op = .decodeCompose) := by
  unfold opOfField at h
  split at h
  · next h1 => exact .inl ⟨h1, by simpa using h.symm⟩
  · split at h
    · next h2 => exact .inr (.inl ⟨h2, by simpa using h.symm⟩)
    · split at h
      · next h3 => exact .inr (.inr ⟨h3, by simpa using h.symm⟩)
      · cases h

/-- A decoded command word: its opcode field's command, no reserved bit, and the two option fields. -/
theorem decodeCommandWord_ok {w : Word} {c : Command} (h : decodeCommandWord w = .ok c) :
    opOfField (opcodeField w) = some c.op ∧ reservedField c.op w = 0 ∧
      c.order = chordField w ∧ c.swap = swapField w := by
  unfold decodeCommandWord at h
  split at h
  · cases h
  · next op hop =>
    split at h
    · next hr =>
      obtain rfl : ({ op := op, order := chordField w, swap := swapField w } : Command) = c := by
        injection h
      exact ⟨hop, hr, rfl, rfl⟩
    · cases h

theorem check_of_illegal {v : Word} {r : OperandRegs} {e : IllegalWord} (h : decodeCommandWord v = .error e) :
    check v r = .error (illegalWordError e) := by simp [check, h]

/-- A passed check: the word decodes to the command and every operand test passes. -/
theorem check_ok {v : Word} {r : OperandRegs} {c : Command} (h : check v r = .ok c) :
    decodeCommandWord v = .ok c ∧ checkOperands c.op r = none := by
  unfold check at h
  split at h
  · cases h
  · next c' hc =>
    split at h
    · cases h
    · next hn =>
      obtain rfl : c' = c := by injection h
      exact ⟨hc, hn⟩

theorem checkOperands_none {op : Op} {r : OperandRegs} (h : checkOperands op r = none) :
    checkGeometry op r = none ∧ checkRanges op r = none := by
  unfold checkOperands at h
  split at h
  · cases h
  · next hg => exact ⟨hg, h⟩

/-- The geometry of a command that passed: legal dimensions and their tile count (R160, R233). -/
theorem checkGeometry_none {op : Op} {r : OperandRegs} (h : checkGeometry op r = none) (hop : op ≠ .decodeTile) :
    legalDim r.width.toNat = true ∧ legalDim r.height.toNat = true ∧ r.tileCount.toNat = geometryTiles r := by
  unfold checkGeometry at h
  rw [if_neg hop] at h
  split at h
  · cases h
  · next hw =>
    split at h
    · cases h
    · next hh =>
      split at h
      · cases h
      · next hc => exact ⟨by simpa using hw, by simpa using hh, by simpa using hc⟩

theorem legalDim_iff {v : Nat} : legalDim v = true ↔ v % 512 = 0 ∧ 512 ≤ v ∧ v ≤ 8192 := by
  simp only [legalDim, Bool.and_eq_true, beq_iff_eq, decide_eq_true_eq, and_assoc]
  rfl

/-- The ranges of a command that passed: long enough buffers, in the address space, and disjoint (R66 to R69). -/
theorem checkRanges_none {op : Op} {r : OperandRegs} (h : checkRanges op r = none) :
    sourceEndOffset op r ≤ r.srcLen.toNat ∧ r.srcAddr.toNat + sourceEndOffset op r ≤ Config.addrSpace ∧
      outputBytes op r ≤ r.dstLen.toNat ∧ (destRange op r).stop ≤ Config.addrSpace ∧
      (sourceRange op r).overlaps (destRange op r) = false := by
  unfold checkRanges at h
  split at h
  · cases h
  · next h1 =>
    split at h
    · cases h
    · next h2 =>
      split at h
      · cases h
      · next h3 =>
        split at h
        · cases h
        · next h4 =>
          split at h
          · cases h
          · next h5 =>
            exact ⟨by omega, by omega, by omega, by simp only [destRange, ByteRange.stop]; omega, by simpa using h5⟩

theorem sourceRange_stop (op : Op) (r : OperandRegs) :
    (sourceRange op r).stop = r.srcAddr.toNat + sourceEndOffset op r := by
  cases op <;> simp only [sourceRange, sourceEndOffset, ByteRange.stop]
  rw [Nat.mul_add, Nat.mul_one, Nat.add_assoc]

/-- Both ranges of a command that passed end in the address space, so the engine completes it. -/
theorem inSpace_of_checkOperands {op : Op} {r : OperandRegs} (h : checkOperands op r = none) :
    (sourceRange op r).inSpace = true ∧ (destRange op r).inSpace = true := by
  obtain ⟨-, h2, -, h4, -⟩ := checkRanges_none (checkOperands_none h).2
  constructor
  · simp only [ByteRange.inSpace, decide_eq_true_eq, sourceRange_stop]; exact h2
  · simpa [ByteRange.inSpace] using h4

end Sys2Proof.Machine
end

