-- ==== Sys2Proof/Laws/Memory.lean ====
section
/-! SUPPORT. The laws of system memory: a read after a write, at the written bytes and elsewhere, and that every
operation keeps the canonical form. -/

namespace Sys2Proof.Machine

theorem ByteRange.contains_iff {r : ByteRange} {a : Nat} :
    r.contains a = true ↔ r.start ≤ a ∧ a < r.start + r.len := by
  simp only [ByteRange.contains, Bool.and_eq_true, decide_eq_true_eq]
  rfl

theorem ByteRange.inSpace_iff {r : ByteRange} : r.inSpace = true ↔ r.start + r.len ≤ 2 ^ 32 := by
  simp only [ByteRange.inSpace, decide_eq_true_eq]
  rfl

theorem ByteRange.overlaps_iff {r d : ByteRange} :
    r.overlaps d = true ↔ r.start < d.start + d.len ∧ d.start < r.start + r.len := by
  simp only [ByteRange.overlaps, Bool.and_eq_true, decide_eq_true_eq]
  rfl

theorem Memory.find_cons (c : Host.Cell) (m : Memory) (a : Nat) :
    Memory.find (c :: m) a = if c.1 = a then some c.2 else Memory.find m a := rfl

theorem Memory.find_append (m m' : Memory) (a : Nat) :
    Memory.find (m ++ m') a = (Memory.find m a).or (Memory.find m' a) := by
  induction m with
  | nil => rfl
  | cons c m ih =>
    rw [List.cons_append, Memory.find_cons, Memory.find_cons, ih]
    split <;> rfl

/-- A filter that keeps an address keeps its entry. -/
theorem Memory.find_filter_keep {p : Nat → Bool} {a : Nat} (h : p a = true) (m : Memory) :
    Memory.find (m.filter fun c => p c.1) a = Memory.find m a := by
  induction m with
  | nil => rfl
  | cons c m ih =>
    by_cases hc : c.1 = a
    · rw [List.filter_cons, if_pos (by rw [hc]; exact h), Memory.find_cons, Memory.find_cons, if_pos hc, if_pos hc]
    · rw [List.filter_cons]
      split
      · rw [Memory.find_cons, Memory.find_cons, if_neg hc, if_neg hc, ih]
      · rw [Memory.find_cons, if_neg hc, ih]

/-- A filter that drops an address drops its entry. -/
theorem Memory.find_filter_drop {p : Nat → Bool} {a : Nat} (h : p a = false) (m : Memory) :
    Memory.find (m.filter fun c => p c.1) a = none := by
  induction m with
  | nil => rfl
  | cons c m ih =>
    rw [List.filter_cons]
    split
    · next hp =>
      rw [Memory.find_cons, if_neg (by rintro rfl; simp [h] at hp), ih]
    · exact ih

/-- The entries of freshly written bytes. -/
theorem Memory.find_written (start len : Nat) (f : Nat → Byte) (a : Nat) :
    Memory.find ((List.range len).map fun i => (start + i, f i)) a
      = if start ≤ a ∧ a < start + len then some (f (a - start)) else none := by
  induction len with
  | zero =>
    rw [if_neg (by omega)]
    rfl
  | succ n ih =>
    rw [List.range_succ, List.map_append, Memory.find_append, ih, List.map_singleton, Memory.find_cons]
    by_cases ha : a = start + n
    · subst ha
      simp
    · have hne : ¬ (start + n, f n).1 = a := Ne.symm ha
      rw [if_neg hne]
      by_cases h : start ≤ a ∧ a < start + n
      · have h' : start ≤ a ∧ a < start + (n + 1) := by omega
        rw [if_pos h, if_pos h']
        rfl
      · have h' : ¬ (start ≤ a ∧ a < start + (n + 1)) := by omega
        rw [if_neg h, if_neg h']
        rfl

theorem Memory.find_writeRange (m : Memory) (start len : Nat) (f : Nat → Byte) (a : Nat) :
    Memory.find (Memory.writeRange m start len f) a
      = if start ≤ a ∧ a < start + len then some (f (a - start)) else Memory.find m a := by
  unfold Memory.writeRange
  rw [Memory.find_append, Memory.find_append, Memory.find_written]
  by_cases hin : start ≤ a ∧ a < start + len
  · rw [Memory.find_filter_drop (p := fun k => decide (k < start)) (by simpa using hin.1)]
    simp [hin]
  · by_cases hlt : a < start
    · rw [Memory.find_filter_keep (p := fun k => decide (k < start)) (by simpa using hlt),
        Memory.find_filter_drop (p := fun k => decide (start + len ≤ k)) (by simp; omega)]
      simp [hin]
    · rw [Memory.find_filter_drop (p := fun k => decide (k < start)) (by simpa using hlt),
        Memory.find_filter_keep (p := fun k => decide (start + len ≤ k)) (by simp; omega)]
      simp [hin]

/-- A read after a range is written. -/
theorem Memory.read_writeRange (m : Memory) (start len : Nat) (f : Nat → Byte) (a : Nat) :
    Memory.read (Memory.writeRange m start len f) a
      = if start ≤ a ∧ a < start + len then f (a - start) else Memory.read m a := by
  unfold Memory.read
  rw [Memory.find_writeRange]
  split <;> rfl

theorem Memory.read_writeRange_inside {m : Memory} {start len i : Nat} {f : Nat → Byte} (h : i < len) :
    Memory.read (Memory.writeRange m start len f) (start + i) = f i := by
  rw [Memory.read_writeRange, if_pos ⟨by omega, by omega⟩, Nat.add_sub_cancel_left]

theorem Memory.read_writeRange_outside {m : Memory} {start len a : Nat} {f : Nat → Byte}
    (h : (ByteRange.mk start len).contains a = false) :
    Memory.read (Memory.writeRange m start len f) a = Memory.read m a := by
  rw [Memory.read_writeRange, if_neg]
  rintro ⟨h1, h2⟩
  simp [ByteRange.contains, ByteRange.stop, h1, h2] at h

theorem Memory.read_write (m : Memory) (a : Nat) (v : Byte) (b : Nat) :
    Memory.read (Memory.write m a v) b = if b = a then v else Memory.read m b := by
  unfold Memory.write
  rw [Memory.read_writeRange]
  by_cases h : b = a
  · subst h; simp
  · rw [if_neg (by omega), if_neg h]

/-- A read after a sequence of byte writes that all agree with one function of the address. -/
theorem Memory.read_writeAll {g : Nat → Byte} (writes : List (Nat × Byte)) :
    ∀ m : Memory, (∀ w ∈ writes, w.2 = g w.1) → ∀ a,
      Memory.read (Memory.writeAll m writes) a = if a ∈ writes.map Prod.fst then g a else Memory.read m a := by
  induction writes with
  | nil => intro m _ a; simp [Memory.writeAll]
  | cons w ws ih =>
    intro m hw a
    have step := ih (Memory.write m w.1 w.2) (fun x hx => hw x (List.mem_cons_of_mem _ hx)) a
    simp only [Memory.writeAll, List.foldl_cons] at step ⊢
    rw [step]
    by_cases hin : a ∈ ws.map Prod.fst
    · rw [if_pos hin, if_pos (by simp only [List.map_cons, List.mem_cons]; exact Or.inr hin)]
    · rw [if_neg hin, Memory.read_write]
      by_cases ha : a = w.1
      · subst ha
        simp [hw w List.mem_cons_self]
      · rw [if_neg ha, if_neg]
        simp only [List.map_cons, List.mem_cons, not_or]
        exact ⟨ha, hin⟩

theorem Memory.wf_nil : Memory.wf [] := by simp [Memory.wf]

theorem Memory.wf_writeRange {m : Memory} {start len : Nat} {f : Nat → Byte} (h : Memory.wf m)
    (hs : start + len ≤ Config.addrSpace) : Memory.wf (Memory.writeRange m start len f) := by
  obtain ⟨hp, hb⟩ := h
  constructor
  · unfold Memory.writeRange
    rw [List.append_assoc, List.pairwise_append, List.pairwise_append]
    refine ⟨hp.filter _, ⟨?_, hp.filter _, ?_⟩, ?_⟩
    · rw [List.pairwise_map]
      exact List.pairwise_lt_range.imp (by intro a b hab; simpa using hab)
    · intro x hx y hy
      simp only [List.mem_map, List.mem_range] at hx
      obtain ⟨i, hi, rfl⟩ := hx
      simp only [List.mem_filter, decide_eq_true_eq] at hy
      show start + i < y.1
      omega
    · intro x hx y hy
      simp only [List.mem_filter, decide_eq_true_eq] at hx
      simp only [List.mem_append, List.mem_map, List.mem_range, List.mem_filter, decide_eq_true_eq] at hy
      rcases hy with ⟨i, hi, rfl⟩ | hy
      · show x.1 < start + i
        omega
      · omega
  · intro c hc
    unfold Memory.writeRange at hc
    simp only [List.mem_append, List.mem_map, List.mem_range, List.mem_filter] at hc
    rcases hc with (hc | ⟨i, hi, rfl⟩) | hc
    · exact hb c hc.1
    · show start + i < Config.addrSpace
      omega
    · exact hb c hc.1

theorem Memory.wf_write {m : Memory} {a : Nat} {v : Byte} (h : Memory.wf m) (ha : a < Config.addrSpace) :
    Memory.wf (Memory.write m a v) := Memory.wf_writeRange h (by omega)

end Sys2Proof.Machine
end

