-- ==== Sys2Proof/Laws/State.lean ====
section
/-! SUPPORT. The state's field lemmas: what each named update does to each field, true by definition, so that no proof
unfolds a record update. -/

namespace Sys2Proof.Machine

theorem State.busy_eq (s : State) : s.busy = match s.engine with | .idle => false | .busy _ => true := rfl

theorem State.busy_of_idle {s : State} (h : s.engine = .idle) : s.busy = false := by simp [State.busy, h]

theorem State.busy_of_busy {s : State} {sn : Snapshot} (h : s.engine = .busy sn) : s.busy = true := by
  simp [State.busy, h]

theorem State.idle_of_not_busy {s : State} (h : s.busy = false) : s.engine = .idle := by
  cases he : s.engine with
  | idle => rfl
  | busy sn => simp [State.busy, he] at h

theorem State.exists_snapshot {s : State} (h : s.busy = true) : ∃ sn, s.engine = .busy sn := by
  cases he : s.engine with
  | idle => simp [State.busy, he] at h
  | busy sn => exact ⟨sn, rfl⟩

section respond
variable (s : State) (r : HostResponse)

@[simp] theorem State.respond_irqEn : (s.respond r).irqEn = s.irqEn := rfl
@[simp] theorem State.respond_done : (s.respond r).done = s.done := rfl
@[simp] theorem State.respond_err : (s.respond r).err = s.err := rfl
@[simp] theorem State.respond_ignwr : (s.respond r).ignwr = s.ignwr := rfl
@[simp] theorem State.respond_errcode : (s.respond r).errcode = s.errcode := rfl
@[simp] theorem State.respond_errdetail : (s.respond r).errdetail = s.errdetail := rfl
@[simp] theorem State.respond_regs : (s.respond r).regs = s.regs := rfl
@[simp] theorem State.respond_outWidth : (s.respond r).outWidth = s.outWidth := rfl
@[simp] theorem State.respond_outHeight : (s.respond r).outHeight = s.outHeight := rfl
@[simp] theorem State.respond_engine : (s.respond r).engine = s.engine := rfl
@[simp] theorem State.respond_mem : (s.respond r).mem = s.mem := rfl
@[simp] theorem State.respond_faults : (s.respond r).faults = s.faults := rfl
@[simp] theorem State.respond_host : (s.respond r).host = s.host := rfl
@[simp] theorem State.respond_resp : (s.respond r).resp = r := rfl
@[simp] theorem State.respond_draws : (s.respond r).draws = s.draws := rfl
@[simp] theorem State.respond_busy : (s.respond r).busy = s.busy := rfl

end respond

section busError
variable (s : State)

@[simp] theorem State.busError_irqEn : (s.busError).irqEn = s.irqEn := rfl
@[simp] theorem State.busError_done : (s.busError).done = s.done := rfl
@[simp] theorem State.busError_err : (s.busError).err = s.err := rfl
@[simp] theorem State.busError_ignwr : (s.busError).ignwr = s.ignwr := rfl
@[simp] theorem State.busError_errcode : (s.busError).errcode = s.errcode := rfl
@[simp] theorem State.busError_errdetail : (s.busError).errdetail = s.errdetail := rfl
@[simp] theorem State.busError_regs : (s.busError).regs = s.regs := rfl
@[simp] theorem State.busError_outWidth : (s.busError).outWidth = s.outWidth := rfl
@[simp] theorem State.busError_outHeight : (s.busError).outHeight = s.outHeight := rfl
@[simp] theorem State.busError_engine : (s.busError).engine = s.engine := rfl
@[simp] theorem State.busError_mem : (s.busError).mem = s.mem := rfl
@[simp] theorem State.busError_faults : (s.busError).faults = s.faults := rfl
@[simp] theorem State.busError_host : (s.busError).host = s.host := rfl
@[simp] theorem State.busError_resp : (s.busError).resp = .busError := rfl
@[simp] theorem State.busError_draws : (s.busError).draws = s.draws := rfl
@[simp] theorem State.busError_busy : (s.busError).busy = s.busy := rfl

end busError

section noEffect
variable (s : State)

@[simp] theorem State.noEffect_irqEn : (s.noEffect).irqEn = s.irqEn := rfl
@[simp] theorem State.noEffect_done : (s.noEffect).done = s.done := rfl
@[simp] theorem State.noEffect_err : (s.noEffect).err = s.err := rfl
@[simp] theorem State.noEffect_ignwr : (s.noEffect).ignwr = s.ignwr := rfl
@[simp] theorem State.noEffect_errcode : (s.noEffect).errcode = s.errcode := rfl
@[simp] theorem State.noEffect_errdetail : (s.noEffect).errdetail = s.errdetail := rfl
@[simp] theorem State.noEffect_regs : (s.noEffect).regs = s.regs := rfl
@[simp] theorem State.noEffect_outWidth : (s.noEffect).outWidth = s.outWidth := rfl
@[simp] theorem State.noEffect_outHeight : (s.noEffect).outHeight = s.outHeight := rfl
@[simp] theorem State.noEffect_engine : (s.noEffect).engine = s.engine := rfl
@[simp] theorem State.noEffect_mem : (s.noEffect).mem = s.mem := rfl
@[simp] theorem State.noEffect_faults : (s.noEffect).faults = s.faults := rfl
@[simp] theorem State.noEffect_host : (s.noEffect).host = s.host := rfl
@[simp] theorem State.noEffect_resp : (s.noEffect).resp = .done := rfl
@[simp] theorem State.noEffect_draws : (s.noEffect).draws = s.draws := rfl
@[simp] theorem State.noEffect_busy : (s.noEffect).busy = s.busy := rfl

end noEffect

section clearDone
variable (s : State)

@[simp] theorem State.clearDone_irqEn : (s.clearDone).irqEn = s.irqEn := rfl
@[simp] theorem State.clearDone_done : (s.clearDone).done = false := rfl
@[simp] theorem State.clearDone_err : (s.clearDone).err = s.err := rfl
@[simp] theorem State.clearDone_ignwr : (s.clearDone).ignwr = s.ignwr := rfl
@[simp] theorem State.clearDone_errcode : (s.clearDone).errcode = s.errcode := rfl
@[simp] theorem State.clearDone_errdetail : (s.clearDone).errdetail = s.errdetail := rfl
@[simp] theorem State.clearDone_regs : (s.clearDone).regs = s.regs := rfl
@[simp] theorem State.clearDone_outWidth : (s.clearDone).outWidth = s.outWidth := rfl
@[simp] theorem State.clearDone_outHeight : (s.clearDone).outHeight = s.outHeight := rfl
@[simp] theorem State.clearDone_engine : (s.clearDone).engine = s.engine := rfl
@[simp] theorem State.clearDone_mem : (s.clearDone).mem = s.mem := rfl
@[simp] theorem State.clearDone_faults : (s.clearDone).faults = s.faults := rfl
@[simp] theorem State.clearDone_host : (s.clearDone).host = s.host := rfl
@[simp] theorem State.clearDone_resp : (s.clearDone).resp = s.resp := rfl
@[simp] theorem State.clearDone_draws : (s.clearDone).draws = s.draws := rfl
@[simp] theorem State.clearDone_busy : (s.clearDone).busy = s.busy := rfl

end clearDone

section clearErr
variable (s : State)

@[simp] theorem State.clearErr_irqEn : (s.clearErr).irqEn = s.irqEn := rfl
@[simp] theorem State.clearErr_done : (s.clearErr).done = s.done := rfl
@[simp] theorem State.clearErr_err : (s.clearErr).err = false := rfl
@[simp] theorem State.clearErr_ignwr : (s.clearErr).ignwr = s.ignwr := rfl
@[simp] theorem State.clearErr_errcode : (s.clearErr).errcode = 0 := rfl
@[simp] theorem State.clearErr_errdetail : (s.clearErr).errdetail = 0 := rfl
@[simp] theorem State.clearErr_regs : (s.clearErr).regs = s.regs := rfl
@[simp] theorem State.clearErr_outWidth : (s.clearErr).outWidth = s.outWidth := rfl
@[simp] theorem State.clearErr_outHeight : (s.clearErr).outHeight = s.outHeight := rfl
@[simp] theorem State.clearErr_engine : (s.clearErr).engine = s.engine := rfl
@[simp] theorem State.clearErr_mem : (s.clearErr).mem = s.mem := rfl
@[simp] theorem State.clearErr_faults : (s.clearErr).faults = s.faults := rfl
@[simp] theorem State.clearErr_host : (s.clearErr).host = s.host := rfl
@[simp] theorem State.clearErr_resp : (s.clearErr).resp = s.resp := rfl
@[simp] theorem State.clearErr_draws : (s.clearErr).draws = s.draws := rfl
@[simp] theorem State.clearErr_busy : (s.clearErr).busy = s.busy := rfl

end clearErr

section clearIgnwr
variable (s : State)

@[simp] theorem State.clearIgnwr_irqEn : (s.clearIgnwr).irqEn = s.irqEn := rfl
@[simp] theorem State.clearIgnwr_done : (s.clearIgnwr).done = s.done := rfl
@[simp] theorem State.clearIgnwr_err : (s.clearIgnwr).err = s.err := rfl
@[simp] theorem State.clearIgnwr_ignwr : (s.clearIgnwr).ignwr = false := rfl
@[simp] theorem State.clearIgnwr_errcode : (s.clearIgnwr).errcode = s.errcode := rfl
@[simp] theorem State.clearIgnwr_errdetail : (s.clearIgnwr).errdetail = s.errdetail := rfl
@[simp] theorem State.clearIgnwr_regs : (s.clearIgnwr).regs = s.regs := rfl
@[simp] theorem State.clearIgnwr_outWidth : (s.clearIgnwr).outWidth = s.outWidth := rfl
@[simp] theorem State.clearIgnwr_outHeight : (s.clearIgnwr).outHeight = s.outHeight := rfl
@[simp] theorem State.clearIgnwr_engine : (s.clearIgnwr).engine = s.engine := rfl
@[simp] theorem State.clearIgnwr_mem : (s.clearIgnwr).mem = s.mem := rfl
@[simp] theorem State.clearIgnwr_faults : (s.clearIgnwr).faults = s.faults := rfl
@[simp] theorem State.clearIgnwr_host : (s.clearIgnwr).host = s.host := rfl
@[simp] theorem State.clearIgnwr_resp : (s.clearIgnwr).resp = s.resp := rfl
@[simp] theorem State.clearIgnwr_draws : (s.clearIgnwr).draws = s.draws := rfl
@[simp] theorem State.clearIgnwr_busy : (s.clearIgnwr).busy = s.busy := rfl

end clearIgnwr

section ignoreWrite
variable (s : State)

@[simp] theorem State.ignoreWrite_irqEn : (s.ignoreWrite).irqEn = s.irqEn := rfl
@[simp] theorem State.ignoreWrite_done : (s.ignoreWrite).done = s.done := rfl
@[simp] theorem State.ignoreWrite_err : (s.ignoreWrite).err = s.err := rfl
@[simp] theorem State.ignoreWrite_ignwr : (s.ignoreWrite).ignwr = true := rfl
@[simp] theorem State.ignoreWrite_errcode : (s.ignoreWrite).errcode = s.errcode := rfl
@[simp] theorem State.ignoreWrite_errdetail : (s.ignoreWrite).errdetail = s.errdetail := rfl
@[simp] theorem State.ignoreWrite_regs : (s.ignoreWrite).regs = s.regs := rfl
@[simp] theorem State.ignoreWrite_outWidth : (s.ignoreWrite).outWidth = s.outWidth := rfl
@[simp] theorem State.ignoreWrite_outHeight : (s.ignoreWrite).outHeight = s.outHeight := rfl
@[simp] theorem State.ignoreWrite_engine : (s.ignoreWrite).engine = s.engine := rfl
@[simp] theorem State.ignoreWrite_mem : (s.ignoreWrite).mem = s.mem := rfl
@[simp] theorem State.ignoreWrite_faults : (s.ignoreWrite).faults = s.faults := rfl
@[simp] theorem State.ignoreWrite_host : (s.ignoreWrite).host = s.host := rfl
@[simp] theorem State.ignoreWrite_resp : (s.ignoreWrite).resp = s.resp := rfl
@[simp] theorem State.ignoreWrite_draws : (s.ignoreWrite).draws = s.draws := rfl
@[simp] theorem State.ignoreWrite_busy : (s.ignoreWrite).busy = s.busy := rfl

end ignoreWrite

section reject
variable (s : State) (e : CoreError)

@[simp] theorem State.reject_irqEn : (s.reject e).irqEn = s.irqEn := rfl
@[simp] theorem State.reject_done : (s.reject e).done = true := rfl
@[simp] theorem State.reject_err : (s.reject e).err = true := rfl
@[simp] theorem State.reject_ignwr : (s.reject e).ignwr = s.ignwr := rfl
@[simp] theorem State.reject_errcode : (s.reject e).errcode = e.code := rfl
@[simp] theorem State.reject_errdetail : (s.reject e).errdetail = e.detail := rfl
@[simp] theorem State.reject_regs : (s.reject e).regs = s.regs := rfl
@[simp] theorem State.reject_outWidth : (s.reject e).outWidth = 0 := rfl
@[simp] theorem State.reject_outHeight : (s.reject e).outHeight = 0 := rfl
@[simp] theorem State.reject_engine : (s.reject e).engine = s.engine := rfl
@[simp] theorem State.reject_mem : (s.reject e).mem = s.mem := rfl
@[simp] theorem State.reject_faults : (s.reject e).faults = s.faults := rfl
@[simp] theorem State.reject_host : (s.reject e).host = s.host := rfl
@[simp] theorem State.reject_resp : (s.reject e).resp = s.resp := rfl
@[simp] theorem State.reject_draws : (s.reject e).draws = s.draws := rfl
@[simp] theorem State.reject_busy : (s.reject e).busy = s.busy := rfl

end reject

section accept
variable (s : State) (c : Command)

@[simp] theorem State.accept_irqEn : (s.accept c).irqEn = s.irqEn := rfl
@[simp] theorem State.accept_done : (s.accept c).done = false := rfl
@[simp] theorem State.accept_err : (s.accept c).err = false := rfl
@[simp] theorem State.accept_ignwr : (s.accept c).ignwr = s.ignwr := rfl
@[simp] theorem State.accept_errcode : (s.accept c).errcode = 0 := rfl
@[simp] theorem State.accept_errdetail : (s.accept c).errdetail = 0 := rfl
@[simp] theorem State.accept_regs : (s.accept c).regs = s.regs := rfl
@[simp] theorem State.accept_outWidth : (s.accept c).outWidth = 0 := rfl
@[simp] theorem State.accept_outHeight : (s.accept c).outHeight = 0 := rfl
@[simp] theorem State.accept_engine : (s.accept c).engine = .busy ⟨c, s.regs⟩ := rfl
@[simp] theorem State.accept_mem : (s.accept c).mem = s.mem := rfl
@[simp] theorem State.accept_faults : (s.accept c).faults = s.faults := rfl
@[simp] theorem State.accept_host : (s.accept c).host = s.host := rfl
@[simp] theorem State.accept_resp : (s.accept c).resp = s.resp := rfl
@[simp] theorem State.accept_draws : (s.accept c).draws = s.draws := rfl
@[simp] theorem State.accept_busy : (s.accept c).busy = true := rfl

end accept

section complete
variable (s : State) (d : ByteRange) (f : Nat → Byte) (w h : Word)

@[simp] theorem State.complete_irqEn : (s.complete d f w h).irqEn = s.irqEn := rfl
@[simp] theorem State.complete_done : (s.complete d f w h).done = true := rfl
@[simp] theorem State.complete_err : (s.complete d f w h).err = s.err := rfl
@[simp] theorem State.complete_ignwr : (s.complete d f w h).ignwr = s.ignwr := rfl
@[simp] theorem State.complete_errcode : (s.complete d f w h).errcode = s.errcode := rfl
@[simp] theorem State.complete_errdetail : (s.complete d f w h).errdetail = s.errdetail := rfl
@[simp] theorem State.complete_regs : (s.complete d f w h).regs = s.regs := rfl
@[simp] theorem State.complete_outWidth : (s.complete d f w h).outWidth = w := rfl
@[simp] theorem State.complete_outHeight : (s.complete d f w h).outHeight = h := rfl
@[simp] theorem State.complete_engine : (s.complete d f w h).engine = .idle := rfl
@[simp] theorem State.complete_mem : (s.complete d f w h).mem = Memory.writeRange s.mem d.start d.len f := rfl
@[simp] theorem State.complete_faults : (s.complete d f w h).faults = s.faults := rfl
@[simp] theorem State.complete_host : (s.complete d f w h).host = s.host := rfl
@[simp] theorem State.complete_resp : (s.complete d f w h).resp = s.resp := rfl
@[simp] theorem State.complete_draws : (s.complete d f w h).draws = s.draws := rfl
@[simp] theorem State.complete_busy : (s.complete d f w h).busy = false := rfl

end complete

section coreReset
variable (s : State)

@[simp] theorem State.coreReset_irqEn : (s.coreReset).irqEn = false := rfl
@[simp] theorem State.coreReset_done : (s.coreReset).done = false := rfl
@[simp] theorem State.coreReset_err : (s.coreReset).err = false := rfl
@[simp] theorem State.coreReset_ignwr : (s.coreReset).ignwr = false := rfl
@[simp] theorem State.coreReset_errcode : (s.coreReset).errcode = 0 := rfl
@[simp] theorem State.coreReset_errdetail : (s.coreReset).errdetail = 0 := rfl
@[simp] theorem State.coreReset_regs : (s.coreReset).regs = .reset := rfl
@[simp] theorem State.coreReset_outWidth : (s.coreReset).outWidth = 0 := rfl
@[simp] theorem State.coreReset_outHeight : (s.coreReset).outHeight = 0 := rfl
@[simp] theorem State.coreReset_engine : (s.coreReset).engine = .idle := rfl
@[simp] theorem State.coreReset_mem : (s.coreReset).mem = s.mem := rfl
@[simp] theorem State.coreReset_faults : (s.coreReset).faults = s.faults := rfl
@[simp] theorem State.coreReset_host : (s.coreReset).host = s.host := rfl
@[simp] theorem State.coreReset_resp : (s.coreReset).resp = s.resp := rfl
@[simp] theorem State.coreReset_draws : (s.coreReset).draws = s.draws := rfl
@[simp] theorem State.coreReset_busy : (s.coreReset).busy = false := rfl

end coreReset

section abort
variable (s : State) (sn : Snapshot)

@[simp] theorem State.abort_irqEn : (s.abort sn).irqEn = s.irqEn := rfl
@[simp] theorem State.abort_done : (s.abort sn).done = s.done := rfl
@[simp] theorem State.abort_err : (s.abort sn).err = s.err := rfl
@[simp] theorem State.abort_ignwr : (s.abort sn).ignwr = s.ignwr := rfl
@[simp] theorem State.abort_errcode : (s.abort sn).errcode = s.errcode := rfl
@[simp] theorem State.abort_errdetail : (s.abort sn).errdetail = s.errdetail := rfl
@[simp] theorem State.abort_regs : (s.abort sn).regs = s.regs := rfl
@[simp] theorem State.abort_outWidth : (s.abort sn).outWidth = s.outWidth := rfl
@[simp] theorem State.abort_outHeight : (s.abort sn).outHeight = s.outHeight := rfl
@[simp] theorem State.abort_engine : (s.abort sn).engine = s.engine := rfl
@[simp] theorem State.abort_mem : (s.abort sn).mem = Memory.writeRange s.mem sn.dest.start sn.dest.len (fun i => Config.freeByte (s.draws + i)) := rfl
@[simp] theorem State.abort_faults : (s.abort sn).faults = s.faults := rfl
@[simp] theorem State.abort_host : (s.abort sn).host = s.host := rfl
@[simp] theorem State.abort_resp : (s.abort sn).resp = s.resp := rfl
@[simp] theorem State.abort_draws : (s.abort sn).draws = s.draws + sn.dest.len := rfl
@[simp] theorem State.abort_busy : (s.abort sn).busy = s.busy := rfl

end abort

section recordFault
variable (s : State) (f : ModelFault)

@[simp] theorem State.recordFault_irqEn : (s.recordFault f).irqEn = s.irqEn := rfl
@[simp] theorem State.recordFault_done : (s.recordFault f).done = s.done := rfl
@[simp] theorem State.recordFault_err : (s.recordFault f).err = s.err := rfl
@[simp] theorem State.recordFault_ignwr : (s.recordFault f).ignwr = s.ignwr := rfl
@[simp] theorem State.recordFault_errcode : (s.recordFault f).errcode = s.errcode := rfl
@[simp] theorem State.recordFault_errdetail : (s.recordFault f).errdetail = s.errdetail := rfl
@[simp] theorem State.recordFault_regs : (s.recordFault f).regs = s.regs := rfl
@[simp] theorem State.recordFault_outWidth : (s.recordFault f).outWidth = s.outWidth := rfl
@[simp] theorem State.recordFault_outHeight : (s.recordFault f).outHeight = s.outHeight := rfl
@[simp] theorem State.recordFault_engine : (s.recordFault f).engine = s.engine := rfl
@[simp] theorem State.recordFault_mem : (s.recordFault f).mem = s.mem := rfl
@[simp] theorem State.recordFault_faults : (s.recordFault f).faults = if f ∈ s.faults then s.faults else f :: s.faults := rfl
@[simp] theorem State.recordFault_host : (s.recordFault f).host = s.host := rfl
@[simp] theorem State.recordFault_resp : (s.recordFault f).resp = s.resp := rfl
@[simp] theorem State.recordFault_draws : (s.recordFault f).draws = s.draws := rfl
@[simp] theorem State.recordFault_busy : (s.recordFault f).busy = s.busy := rfl

end recordFault

end Sys2Proof.Machine
end

