-- ==== Sys2Proof/Laws/Ops.lean ====
section
/-! SUPPORT. One law for each shared operation: everything it can do. -/

namespace Sys2Proof.Machine

/-- The engine's step answers a next state exactly when both ranges are in the address space: the completed one. -/
theorem State.perform_eq_next {s t : State} {op : Op} {r : OperandRegs} {f : Nat → Byte} {w h : Word} :
    s.perform op r f w h = .next t ↔
      ((sourceRange op r).inSpace = true ∧ (destRange op r).inSpace = true) ∧ t = s.complete (destRange op r) f w h := by
  unfold State.perform
  split
  · next hs =>
    rw [Bool.and_eq_true] at hs
    constructor
    · intro e; injection e with e; exact ⟨hs, e.symm⟩
    · rintro ⟨-, rfl⟩; rfl
  · next hs =>
    rw [Bool.and_eq_true] at hs
    constructor
    · intro e; cases e
    · rintro ⟨h', -⟩; exact absurd h' hs

theorem State.perform_of_inSpace {s : State} {op : Op} {r : OperandRegs} (f : Nat → Byte) (w h : Word)
    (hs : (sourceRange op r).inSpace = true) (hd : (destRange op r).inSpace = true) :
    s.perform op r f w h = .next (s.complete (destRange op r) f w h) :=
  State.perform_eq_next.mpr ⟨⟨hs, hd⟩, rfl⟩

/-- Every byte of memory after a completion. -/
theorem State.complete_read (s : State) (d : ByteRange) (f : Nat → Byte) (w h : Word) (a : Nat) :
    Memory.read (s.complete d f w h).mem a
      = if d.contains a = true then f (a - d.start) else Memory.read s.mem a := by
  rw [State.complete_mem, Memory.read_writeRange]
  simp only [ByteRange.contains_iff]

theorem State.softReset_idle {s : State} (h : s.engine = .idle) : s.softReset = s.coreReset := by
  simp [State.softReset, h]

theorem State.softReset_busy {s : State} {sn : Snapshot} (h : s.engine = .busy sn) :
    s.softReset = (s.abort sn).coreReset := by simp [State.softReset, h]

/-- What a soft reset keeps, in either phase. -/
theorem State.softReset_keeps (s : State) :
    s.softReset.AtReset ∧ s.softReset.faults = s.faults ∧ s.softReset.host = s.host ∧ s.softReset.resp = s.resp := by
  cases h : s.engine with
  | idle => rw [State.softReset_idle h]; exact ⟨⟨rfl, rfl, rfl, rfl, rfl, rfl, rfl, rfl, rfl, rfl⟩, rfl, rfl, rfl⟩
  | busy sn =>
    rw [State.softReset_busy h]; exact ⟨⟨rfl, rfl, rfl, rfl, rfl, rfl, rfl, rfl, rfl, rfl⟩, rfl, rfl, rfl⟩

theorem State.softReset_engine (s : State) : s.softReset.engine = .idle := s.softReset_keeps.1.engine

theorem State.writeOperand_idle {s : State} (h : s.engine = .idle) (put : OperandRegs → OperandRegs) :
    s.writeOperand put = { s with regs := put s.regs } := by
  simp [State.writeOperand, State.busy_of_idle h]

theorem State.writeOperand_busy {s : State} {sn : Snapshot} (h : s.engine = .busy sn)
    (put : OperandRegs → OperandRegs) : s.writeOperand put = s.ignoreWrite := by
  simp [State.writeOperand, State.busy_of_busy h]

/-- A write to STATUS, flag by flag. -/
theorem State.writeStatus_eq (s : State) (v : Word) :
    s.writeStatus v =
      { s with
        done := s.done && !v.getLsbD 1
        err := s.err && !v.getLsbD 2
        errcode := if v.getLsbD 2 then 0 else s.errcode
        errdetail := if v.getLsbD 2 then 0 else s.errdetail
        ignwr := s.ignwr && !v.getLsbD 3 } := by
  unfold State.writeStatus
  cases h1 : v.getLsbD 1 <;> cases h2 : v.getLsbD 2 <;> cases h3 : v.getLsbD 3 <;>
    simp [State.clearDone, State.clearErr, State.clearIgnwr]

/-- The decision at a CMD write: a rejection or an acceptance. -/
theorem State.issue_cases (s : State) (v : Word) :
    (∃ e, check v s.regs = .error e ∧ s.issue v = s.reject e) ∨
    (∃ c, check v s.regs = .ok c ∧ s.issue v = s.accept c) := by
  unfold State.issue
  cases h : check v s.regs with
  | error e => exact .inl ⟨e, rfl, rfl⟩
  | ok c => exact .inr ⟨c, rfl, rfl⟩

theorem State.issue_of_error {s : State} {v : Word} {e : CoreError} (h : check v s.regs = .error e) :
    s.issue v = s.reject e := by simp [State.issue, h]

theorem State.issue_of_ok {s : State} {v : Word} {c : Command} (h : check v s.regs = .ok c) :
    s.issue v = s.accept c := by simp [State.issue, h]

theorem State.mem_recordFault (s : State) (f : ModelFault) : f ∈ (s.recordFault f).faults := by
  rw [State.recordFault_faults]
  split
  · assumption
  · exact List.mem_cons_self

theorem State.recordFault_keeps (s : State) (f g : ModelFault) (h : g ∈ s.faults) :
    g ∈ (s.recordFault f).faults := by
  rw [State.recordFault_faults]
  by_cases hf : f ∈ s.faults
  · rw [if_pos hf]; exact h
  · rw [if_neg hf]; exact List.mem_cons_of_mem _ h

theorem State.recordFault_nodup {s : State} (f : ModelFault) (h : s.faults.Nodup) :
    (s.recordFault f).faults.Nodup := by
  rw [State.recordFault_faults]
  split
  · exact h
  · next hn => exact List.nodup_cons.mpr ⟨hn, h⟩

/-- A host read changes the response and the draw count only. -/
theorem hostRead_eq (a : Word) (s : State) :
    hostRead a s = { s with resp := (hostRead a s).resp, draws := (hostRead a s).draws } := by
  unfold hostRead; split <;> rfl

/-- A host write changes memory, the model faults and the response only. -/
theorem hostWrite_eq (a : Word) (v : Byte) (s : State) :
    hostWrite a v s =
      { s with mem := Memory.write s.mem a.toNat v, faults := (hostWrite a v s).faults, resp := .done } := by
  unfold hostWrite; dsimp only; split <;> rfl

/-- A host write keeps every model fault, and adds HostRace exactly where R78 says. -/
theorem hostWrite_faults (a : Word) (v : Byte) (s : State) :
    (hostWrite a v s).faults =
      if s.inRunningRanges a.toNat = true then (s.recordFault .hostRace).faults else s.faults := by
  unfold hostWrite; dsimp only; split <;> rfl

end Sys2Proof.Machine
end

