-- ==== Sys2Proof/Laws/Commands.lean ====
section
/-! SUPPORT. The laws of the commands: their ranges in numbers, what each one is in IDLE and in BUSY, and the arithmetic
of row-major numbering that their images rest on. -/

namespace Sys2Proof.Machine

/-! ### Ranges in numbers -/

theorem sourceRange_decodeTile (r : OperandRegs) :
    sourceRange .decodeTile r = ⟨r.srcAddr.toNat + 131072 * r.tileIndex.toNat, 131072⟩ := rfl

theorem sourceRange_compose (r : OperandRegs) :
    sourceRange .compose r = ⟨r.srcAddr.toNat, 1048576 * r.tileCount.toNat⟩ := rfl

theorem sourceRange_decodeCompose (r : OperandRegs) :
    sourceRange .decodeCompose r = ⟨r.srcAddr.toNat, 131072 * r.tileCount.toNat⟩ := rfl

theorem destRange_decodeTile (r : OperandRegs) : destRange .decodeTile r = ⟨r.dstAddr.toNat, 1048576⟩ := rfl

theorem destRange_of_image {op : Op} (h : op ≠ .decodeTile) (r : OperandRegs) :
    destRange op r = ⟨r.dstAddr.toNat, r.width.toNat * r.height.toNat * 4⟩ := by
  cases op
  · exact absurd rfl h
  · rfl
  · rfl

/-! ### Completion, byte by byte -/

theorem State.complete_sameOutside (s : State) (d : ByteRange) (f : Nat → Byte) (w h : Word) :
    Memory.SameOutside d s.mem (s.complete d f w h).mem := by
  intro a ha
  rw [State.complete_read, if_neg (by simp [ha])]

theorem State.complete_byte (s : State) {d : ByteRange} (f : Nat → Byte) (w h : Word) {k : Nat} (hk : k < d.len) :
    Memory.read (s.complete d f w h).mem (d.start + k) = f k := by
  rw [State.complete_read, if_pos (ByteRange.contains_iff.mpr ⟨by omega, by omega⟩), Nat.add_sub_cancel_left]

/-- Two completions whose byte functions agree leave the same destination bytes. -/
theorem State.complete_sameInside {s s' : State} {d : ByteRange} {f f' : Nat → Byte} {w h w' h' : Word}
    (hf : ∀ k, k < d.len → f' k = f k) :
    Memory.SameInside d (s.complete d f w h).mem (s'.complete d f' w' h').mem := by
  intro a ha
  rw [State.complete_read, State.complete_read, if_pos ha, if_pos ha]
  rw [ByteRange.contains_iff] at ha
  exact hf _ (by omega)

/-! ### The commands in each phase -/

theorem execDecodeTile_busy {s : State} {sn : Snapshot} (h : s.engine = .busy sn) :
    exec .decodeTile s = s.perform .decodeTile sn.regs
      (decodedTileByte Config.blockByteOrder s.mem (sn.regs.srcAddr.toNat + 131072 * sn.regs.tileIndex.toNat))
      512 512 := by
  unfold exec execDecodeTile; rw [h]; rfl

theorem execCompose_busy {s : State} {sn : Snapshot} (h : s.engine = .busy sn) (order : ChannelOrder) (swap : Bool) :
    exec (.compose order swap) s = s.perform .compose sn.regs
      (imageByte (storedTile s.mem sn.regs.srcAddr.toNat) order
        (widthStride sn.regs.width.toNat sn.regs.height.toNat swap))
      (if swap then sn.regs.height else sn.regs.width) (if swap then sn.regs.width else sn.regs.height) := by
  unfold exec execCompose; rw [h]; rfl

theorem execDecodeCompose_busy {s : State} {sn : Snapshot} (h : s.engine = .busy sn) (order : ChannelOrder)
    (swap : Bool) :
    exec (.decodeCompose order swap) s = s.perform .decodeCompose sn.regs
      (imageByte (decodedTile s.mem sn.regs.srcAddr.toNat) order
        (widthStride sn.regs.width.toNat sn.regs.height.toNat swap))
      (if swap then sn.regs.height else sn.regs.width) (if swap then sn.regs.width else sn.regs.height) := by
  unfold exec execDecodeCompose; rw [h]; rfl

/-- In BUSY every command performs on the snapshot's operands; the dimensions it reports are legal where the check has
passed. -/
theorem execCommand_busy {s : State} {sn : Snapshot} (h : s.engine = .busy sn) (c : Command) :
    ∃ f w h', exec c.instr s = s.perform c.op sn.regs f w h' ∧
      (checkOperands c.op sn.regs = none → legalDim w.toNat = true ∧ legalDim h'.toNat = true) := by
  obtain ⟨op, order, swap⟩ := c
  cases op with
  | decodeTile => exact ⟨_, _, _, execDecodeTile_busy h, fun _ => ⟨rfl, rfl⟩⟩
  | compose =>
    refine ⟨_, _, _, execCompose_busy h order swap, fun hc => ?_⟩
    obtain ⟨hw, hh, -⟩ := checkGeometry_none (checkOperands_none hc).1 (by simp)
    cases swap
    · exact ⟨hw, hh⟩
    · exact ⟨hh, hw⟩
  | decodeCompose =>
    refine ⟨_, _, _, execDecodeCompose_busy h order swap, fun hc => ?_⟩
    obtain ⟨hw, hh, -⟩ := checkGeometry_none (checkOperands_none hc).1 (by simp)
    cases swap
    · exact ⟨hw, hh⟩
    · exact ⟨hh, hw⟩

/-- In IDLE every command is issued by its word. -/
theorem execCommand_idle {s : State} (h : s.engine = .idle) (c : Command) :
    ∃ v, exec c.instr s = .next ((s.issue v).respond .done) := by
  obtain ⟨op, order, swap⟩ := c
  cases op with
  | decodeTile => exact ⟨_, by unfold Command.instr exec execDecodeTile; rw [h]⟩
  | compose => exact ⟨_, by unfold Command.instr exec execCompose; rw [h]⟩
  | decodeCompose => exact ⟨_, by unfold Command.instr exec execDecodeCompose; rw [h]⟩

/-! ### Row-major numbering -/

theorem rowMajor_lt {rows width y x : Nat} (hy : y < rows) (hx : x < width) : y * width + x < rows * width :=
  calc y * width + x < y * width + width := by omega
    _ = (y + 1) * width := by rw [Nat.add_mul, Nat.one_mul]
    _ ≤ rows * width := Nat.mul_le_mul_right _ hy

theorem rowMajor_div {width y x : Nat} (hx : x < width) : (y * width + x) / width = y := by
  rw [Nat.add_comm, Nat.add_mul_div_right _ _ (by omega), Nat.div_eq_of_lt hx, Nat.zero_add]

theorem rowMajor_mod {width y x : Nat} (hx : x < width) : (y * width + x) % width = x := by
  rw [Nat.add_comm, Nat.add_mul_mod_self_right, Nat.mod_eq_of_lt hx]

/-- Byte `k` of image pixel `(x, y)` (R99, R173). -/
theorem imageByte_pixel (tile : Nat → Nat → Pixel) (order : ChannelOrder) {ws x y k : Nat} (hx : x < ws) (hk : k < 4) :
    imageByte tile order ws (4 * (y * ws + x) + k) = placedByte order (imagePixel tile ws x y) k := by
  have e1 : (4 * (y * ws + x) + k) / 4 = y * ws + x := by omega
  have e2 : (4 * (y * ws + x) + k) % 4 = k := by omega
  simp only [imageByte, Config.pixelBytes, e1, e2, rowMajor_mod hx, rowMajor_div hx]

/-- The grid of a legal geometry: rows and columns of tiles (R163, R164). -/
theorem grid_of_legal {w h : Nat} (swap : Bool) (hw : legalDim w = true) (hh : legalDim h = true) :
    ∃ rows cols, 0 < rows ∧ 0 < cols ∧ heightStride w h swap = 512 * rows ∧ widthStride w h swap = 512 * cols ∧
      w * h = (512 * rows) * (512 * cols) ∧ rows * cols = (w / 512) * (h / 512) := by
  rw [legalDim_iff] at hw hh
  obtain ⟨a, rfl⟩ : ∃ a, w = 512 * a := ⟨w / 512, by omega⟩
  obtain ⟨b, rfl⟩ : ∃ b, h = 512 * b := ⟨h / 512, by omega⟩
  have ha : 512 * a / 512 = a := Nat.mul_div_cancel_left _ (by omega)
  have hb : 512 * b / 512 = b := Nat.mul_div_cancel_left _ (by omega)
  rw [ha, hb]
  cases swap
  · exact ⟨b, a, by omega, by omega, rfl, rfl, Nat.mul_comm _ _, Nat.mul_comm _ _⟩
  · exact ⟨a, b, by omega, by omega, rfl, rfl, rfl, rfl⟩

end Sys2Proof.Machine
end

