-- ==== Sys2Proof/Laws/Exec.lean ====
section
/-! SUPPORT. The inversion law of exec: every way an instruction answers a next state, said once. The rules of the whole
machine are short case analyses over it. -/

namespace Sys2Proof.Machine

/-- A command is issued in IDLE, by the write of some word, or completes in BUSY on the snapshot's operands; the
dimensions it reports are legal where the check has passed. -/
theorem execCommand_cases {s t : State} {c : Command} (h : exec c.instr s = .next t) :
    (∃ v, s.engine = .idle ∧ t = (s.issue v).respond .done) ∨
    (∃ sn f w h', s.engine = .busy sn ∧ t = s.complete (destRange c.op sn.regs) f w h' ∧
      (destRange c.op sn.regs).inSpace = true ∧
      (checkOperands c.op sn.regs = none → legalDim w.toNat = true ∧ legalDim h'.toNat = true)) := by
  cases he : s.engine with
  | idle =>
    obtain ⟨v, hv⟩ := execCommand_idle he c
    rw [hv] at h
    injection h with h
    exact .inl ⟨v, rfl, h.symm⟩
  | busy sn =>
    obtain ⟨f, w, h', hx, hl⟩ := execCommand_busy he c
    rw [hx, State.perform_eq_next] at h
    exact .inr ⟨sn, f, w, h', rfl, h.2, h.1.2, hl⟩

/-- The instructions that are commands. -/
theorem instr_cases (i : Instr) : (∃ c : Command, i = c.instr) ∨ ∀ w, encode i ≠ .command w := by
  cases i with
  | decodeTile => exact .inl ⟨⟨.decodeTile, .rgba, false⟩, rfl⟩
  | compose order swap => exact .inl ⟨⟨.compose, order, swap⟩, rfl⟩
  | decodeCompose order swap => exact .inl ⟨⟨.decodeCompose, order, swap⟩, rfl⟩
  | rd _ | wrId _ | wrCtrl _ | wrStatus _ | wrCmd _ | wrSrcAddr _ | wrSrcLen _ | wrDstAddr _ | wrDstLen _ | wrWidth _
  | wrHeight _ | wrTileCount _ | wrTileIndex _ | wrOutWidth _ | wrOutHeight _ | wrReserved _ _ =>
    exact .inr fun w h => Encoding.noConfusion h

/-- Every way an instruction answers a next state: a command's two ways, the three writes with effects of their own, a
write to an operand register, or an answer that changes nothing else. -/
theorem exec_cases {s t : State} {i : Instr} (h : exec i s = .next t) :
    (∃ c : Command, i = c.instr) ∨
    (∃ v, i = .wrCtrl v ∧
      t = (if v.getLsbD 31 then s.softReset else { s with irqEn := v.getLsbD 0 }).respond .done) ∨
    (∃ v, i = .wrStatus v ∧ t = (s.writeStatus v).respond .done) ∨
    (∃ v, i = .wrCmd v ∧ t = (if s.busy then s.ignoreWrite else s.issue v).respond .done) ∨
    (∃ put, t = (s.writeOperand put).respond .done) ∨
    (∃ r, t = s.respond r) := by
  cases i with
  | decodeTile => exact .inl ⟨⟨.decodeTile, .rgba, false⟩, rfl⟩
  | compose order swap => exact .inl ⟨⟨.compose, order, swap⟩, rfl⟩
  | decodeCompose order swap => exact .inl ⟨⟨.decodeCompose, order, swap⟩, rfl⟩
  | wrCtrl v => injection h with h; exact .inr (.inl ⟨v, rfl, h.symm⟩)
  | wrStatus v => injection h with h; exact .inr (.inr (.inl ⟨v, rfl, h.symm⟩))
  | wrCmd v => injection h with h; exact .inr (.inr (.inr (.inl ⟨v, rfl, h.symm⟩)))
  | rd _ | wrReserved _ _ =>
    injection h with h
    refine .inr (.inr (.inr (.inr (.inr ?_))))
    rw [← h]
    split <;> exact ⟨_, rfl⟩
  | wrId _ | wrOutWidth _ | wrOutHeight _ =>
    injection h with h
    exact .inr (.inr (.inr (.inr (.inr ⟨_, h.symm⟩))))
  | wrSrcAddr _ | wrSrcLen _ | wrDstAddr _ | wrDstLen _ | wrWidth _ | wrHeight _ | wrTileCount _ | wrTileIndex _ =>
    injection h with h
    exact .inr (.inr (.inr (.inr (.inl ⟨_, h.symm⟩))))

end Sys2Proof.Machine
end

