-- ==== Sys2Proof/Laws/PerInstr.lean ====
section
/-! SUPPORT. The law that every instruction meets as syntax: where it is well-formed, its encoding lies in its own row of
spec/opcode_table.json. -/

namespace Sys2Proof.Laws.TableRow

/-- The (mask, match) pairs of an instruction's rows in spec/opcode_table.json; WR.RESERVED has three. -/
def rows : Instr → List (Word × Word)
  | .decodeTile => [(0xFFFFFFFF, 0x00000001)]
  | .compose _ _ => [(0xFFFFFFCF, 0x00000002)]
  | .decodeCompose _ _ => [(0xFFFFFFCF, 0x00000003)]
  | .rd _ => [(0x103, 0x000)]
  | .wrId _ => [(0x1FF, 0x100)]
  | .wrCtrl _ => [(0x1FF, 0x104)]
  | .wrStatus _ => [(0x1FF, 0x108)]
  | .wrCmd _ => [(0x1FF, 0x10C)]
  | .wrSrcAddr _ => [(0x1FF, 0x110)]
  | .wrSrcLen _ => [(0x1FF, 0x114)]
  | .wrDstAddr _ => [(0x1FF, 0x118)]
  | .wrDstLen _ => [(0x1FF, 0x11C)]
  | .wrWidth _ => [(0x1FF, 0x120)]
  | .wrHeight _ => [(0x1FF, 0x124)]
  | .wrTileCount _ => [(0x1FF, 0x128)]
  | .wrTileIndex _ => [(0x1FF, 0x12C)]
  | .wrOutWidth _ => [(0x1FF, 0x130)]
  | .wrOutHeight _ => [(0x1FF, 0x134)]
  | .wrReserved _ _ => [(0x1FB, 0x138), (0x1C3, 0x140), (0x183, 0x180)]

/-- The bits an encoding puts in its format. -/
def bits : Encoding → Word
  | .command w => w
  | .busop d _ => d.setWidth 32

/-- A well-formed instruction's encoding matches a row of its own. -/
def Statement (i : Instr) : Prop :=
  i.wellFormed = true → ∃ row ∈ rows i, bits (encode i) &&& row.1 = row.2

/-- A row that fixes all nine bits of its descriptor. -/
theorem of_descriptor {d : BitVec 9} {v m : Word} (h : d.setWidth 32 &&& 0x1FF = m) :
    ∃ row ∈ [((0x1FF : Word), m)], bits (.busop d v) &&& row.1 = row.2 := ⟨_, List.mem_cons_self, h⟩

theorem decodeTile : Statement .decodeTile := fun _ => ⟨_, List.mem_cons_self, by decide⟩

theorem compose (order : ChannelOrder) (swap : Bool) : Statement (.compose order swap) := fun _ =>
  ⟨_, List.mem_cons_self, by cases order <;> cases swap <;> decide⟩

theorem decodeCompose (order : ChannelOrder) (swap : Bool) : Statement (.decodeCompose order swap) := fun _ =>
  ⟨_, List.mem_cons_self, by cases order <;> cases swap <;> decide⟩

theorem rd (offset : BitVec 8) : Statement (.rd offset) := by
  have h : ∀ o : BitVec 8, aligned o = true → (0#1 ++ o).setWidth 32 &&& 0x103 = (0x000 : Word) := by decide
  exact fun ha => ⟨_, List.mem_cons_self, h offset ha⟩

theorem wrId (v : Word) : Statement (.wrId v) := fun _ => of_descriptor (by decide)
theorem wrCtrl (v : Word) : Statement (.wrCtrl v) := fun _ => of_descriptor (by decide)
theorem wrStatus (v : Word) : Statement (.wrStatus v) := fun _ => of_descriptor (by decide)
theorem wrCmd (v : Word) : Statement (.wrCmd v) := fun _ => of_descriptor (by decide)
theorem wrSrcAddr (v : Word) : Statement (.wrSrcAddr v) := fun _ => of_descriptor (by decide)
theorem wrSrcLen (v : Word) : Statement (.wrSrcLen v) := fun _ => of_descriptor (by decide)
theorem wrDstAddr (v : Word) : Statement (.wrDstAddr v) := fun _ => of_descriptor (by decide)
theorem wrDstLen (v : Word) : Statement (.wrDstLen v) := fun _ => of_descriptor (by decide)
theorem wrWidth (v : Word) : Statement (.wrWidth v) := fun _ => of_descriptor (by decide)
theorem wrHeight (v : Word) : Statement (.wrHeight v) := fun _ => of_descriptor (by decide)
theorem wrTileCount (v : Word) : Statement (.wrTileCount v) := fun _ => of_descriptor (by decide)
theorem wrTileIndex (v : Word) : Statement (.wrTileIndex v) := fun _ => of_descriptor (by decide)
theorem wrOutWidth (v : Word) : Statement (.wrOutWidth v) := fun _ => of_descriptor (by decide)
theorem wrOutHeight (v : Word) : Statement (.wrOutHeight v) := fun _ => of_descriptor (by decide)

theorem wrReserved (offset : BitVec 8) (v : Word) : Statement (.wrReserved offset v) := by
  have h : ∀ o : BitVec 8, reservedOffset o = true →
      ∃ row ∈ [((0x1FB : Word), (0x138 : Word)), (0x1C3, 0x140), (0x183, 0x180)],
        (1#1 ++ o).setWidth 32 &&& row.1 = row.2 := by decide
  exact h offset

end Sys2Proof.Laws.TableRow
end

