-- ==== Sys2Proof/Laws/Step.lean ====
section
/-! SUPPORT. The laws of decoding a transaction and of the step: which instructions a bus descriptor selects, and every
way a step answers. -/

namespace Sys2Proof.Machine

/-- A bus descriptor selects a row of the table. -/
theorem decodeBusop_ok {d : BitVec 9} {v : Word} {i : Instr} (h : decodeBusop d v = .ok i) :
    ∃ r ∈ busTable, r.selects d = true ∧ i = r.make (d.extractLsb' 0 8) v := by
  unfold decodeBusop at h
  split at h
  · next r hr =>
    have hs : r.selects d = true := List.find?_some (p := fun x : BusRow => x.selects d) hr
    refine ⟨r, List.mem_of_find?_eq_some hr, hs, ?_⟩
    injection h with h
    exact h.symm
  · cases h

/-- No bus operation is a command. -/
theorem decodeBusop_not_command {d : BitVec 9} {v : Word} {i : Instr} (h : decodeBusop d v = .ok i) :
    ∀ w, encode i ≠ .command w := by
  obtain ⟨r, hr, -, rfl⟩ := decodeBusop_ok h
  intro w
  simp only [busTable, List.mem_cons, List.not_mem_nil, or_false] at hr
  rcases hr with rfl | rfl | rfl | rfl | rfl | rfl | rfl | rfl | rfl | rfl | rfl | rfl | rfl | rfl | rfl | rfl | rfl
    | rfl <;> simp [encode]

theorem decodeTransaction_ok {t : Transaction} {i : Instr} (h : decodeTransaction t = .ok i) :
    t.width = 4 ∧ decodeBusop t.descriptor t.value = .ok i := by
  unfold decodeTransaction at h
  split at h
  · next hw => exact ⟨hw, h⟩
  · cases h

/-- An address in the register window makes the transaction at its offset there (R251). -/
theorem BusAccess.transaction_in {b : BusAccess} {o : BitVec 8} (h : b.address = Config.regBase + o.toNat) :
    b.transaction = some { write := b.write, width := b.width, offset := o, value := b.value } := by
  have ho : o.toNat < Config.regWindow := o.isLt
  have hb : b.address - Config.regBase = o.toNat := by omega
  unfold BusAccess.transaction
  rw [if_pos ⟨by omega, by omega⟩, hb, BitVec.ofNat_toNat, BitVec.setWidth_eq]

/-- An address outside the register window makes none. -/
theorem BusAccess.transaction_out {b : BusAccess} (h : ∀ o : BitVec 8, b.address ≠ Config.regBase + o.toNat) :
    b.transaction = none := by
  unfold BusAccess.transaction
  refine if_neg fun ⟨h1, h2⟩ => h (BitVec.ofNat 8 (b.address - Config.regBase)) ?_
  have h3 : b.address - Config.regBase < 2 ^ 8 := by
    have : Config.regWindow = 2 ^ 8 := rfl
    omega
  rw [BitVec.toNat_ofNat, Nat.mod_eq_of_lt h3]
  omega

/-- What a transaction does: it runs the instruction it decodes to, or it is a bus error. -/
theorem busTurn_outcome {tr : Transaction} {s t : State} (h : (busTurn tr s).outcome = .next t) :
    (∃ i, decodeTransaction tr = .ok i ∧ exec i s = .next t) ∨ ∃ r, t = s.respond r := by
  unfold busTurn at h
  split at h
  · next i hi => exact .inl ⟨i, hi, h⟩
  · injection h with h
    exact .inr ⟨.busError, h.symm⟩

/-- What the host's action does: it runs the instruction its transaction decodes to, or answers without one, or moves
the state. -/
theorem hostTurn_outcome {a : HostAction} {s t : State} (h : (hostTurn a s).outcome = .next t) :
    (∃ tr i, a.transaction = some tr ∧ decodeTransaction tr = .ok i ∧ exec i s = .next t) ∨
    (∃ r, t = s.respond r) ∨
    (∃ addr, a = .memRead addr ∧ t = hostRead addr s) ∨
    (∃ addr v, a = .memWrite addr v ∧ t = hostWrite addr v s) ∨
    (a = .hardReset ∧ t = s.hardReset) := by
  cases a with
  | bus tr =>
    rcases busTurn_outcome h with ⟨i, hi, hx⟩ | hr
    · exact .inl ⟨tr, i, rfl, hi, hx⟩
    · exact .inr (.inl hr)
  | busAt b =>
    simp only [hostTurn] at h
    split at h
    · next tr htr =>
      rcases busTurn_outcome h with ⟨i, hi, hx⟩ | hr
      · exact .inl ⟨tr, i, htr, hi, hx⟩
      · exact .inr (.inl hr)
    · injection h with h
      exact .inr (.inl ⟨.none, h.symm⟩)
  | memRead addr =>
    simp only [hostTurn, Turn.outcome] at h
    injection h with h
    exact .inr (.inr (.inl ⟨addr, rfl, h.symm⟩))
  | memWrite addr v =>
    simp only [hostTurn, Turn.outcome] at h
    injection h with h
    exact .inr (.inr (.inr (.inl ⟨addr, v, rfl, h.symm⟩)))
  | hardReset =>
    simp only [hostTurn, Turn.outcome] at h
    injection h with h
    exact .inr (.inr (.inr (.inr ⟨rfl, h.symm⟩)))

theorem step_eq_outcome (s : State) : step s = (turn s).outcome := by
  unfold step
  cases turn s <;> rfl

/-- Every way a step answers a next state: the core waits, the engine runs the snapshot's command, or the host acts.
`d` is the draw count, one higher where a draw has decided whose turn it is. -/
theorem step_cases {s t : State} (h : step s = .next t) :
    s.faults = [] ∧
    ((s.engine = .idle ∧ s.host = [] ∧ t = s) ∨
     (∃ sn d, s.engine = .busy sn ∧ exec sn.cmd.instr { s with draws := d } = .next t) ∨
     (∃ a rest d, s.host = a :: rest ∧ (hostTurn a { s with host := rest, draws := d }).outcome = .next t)) := by
  rw [step_eq_outcome] at h
  unfold turn at h
  split at h
  · cases h
  · next hf he hh =>
    simp only [Turn.outcome] at h
    injection h with h
    exact ⟨hf, .inl ⟨he, hh, h.symm⟩⟩
  · next a rest hf he hh => exact ⟨hf, .inr (.inr ⟨a, rest, s.draws, hh, h⟩)⟩
  · next sn hf he hh => exact ⟨hf, .inr (.inl ⟨sn, s.draws, he, h⟩)⟩
  · next sn a rest hf he hh =>
    split at h
    · exact ⟨hf, .inr (.inl ⟨sn, s.draws + 1, he, h⟩)⟩
    · exact ⟨hf, .inr (.inr ⟨a, rest, s.draws + 1, hh, h⟩)⟩

/-- With a model fault recorded, every step stops (R78). -/
theorem step_of_fault {s : State} {f : ModelFault} {fs : List ModelFault} (h : s.faults = f :: fs) :
    step s = .fault .hostRace := by
  rw [step_eq_outcome]; unfold turn; rw [h]; rfl

/-- One step more of a run, where the first step answers a next state. -/
theorem core_run_next {s t : State} (k : Nat) (h : step s = .next t) : core.run (k + 1) s = core.run k t := by
  have h' : core.step s = .next t := h
  exact (Host.Core.run.eq_2 core s k).trans (by rw [h'])

/-- A run whose first step stops with a fault. -/
theorem core_run_fault {s : State} {f : Fault} (k : Nat) (h : step s = .fault f) : core.run (k + 1) s = .fault f := by
  have h' : core.step s = .fault f := h
  exact (Host.Core.run.eq_2 core s k).trans (by rw [h'])

end Sys2Proof.Machine
end

