-- ==== Sys2Proof/Tests/Slice0.lean ====
section
/-! SUPPORT. The tests: ill-formed terms, words written out from the spec's encodings, the vectors of
spec/95_test_vectors.md, and a witness for the hypotheses of every statement that has any. -/

namespace Sys2Proof.Tests

open Sys2Proof Sys2Proof.Machine

/-! ### Small states -/

/-- The base operands of spec/95_test_vectors.md 2.10. -/
def base : OperandRegs :=
  { srcAddr := 0x10000000, srcLen := 131072, dstAddr := 0x20000000, dstLen := 1048576, width := 512, height := 512,
    tileCount := 1, tileIndex := 0 }

/-- IDLE with the operands `r`. -/
def idle (r : OperandRegs) : State := { State.reset with regs := r }

/-- BUSY with the command `c` on the operands `r`. -/
def busy (c : Command) (r : OperandRegs) : State := { State.reset with regs := r, engine := .busy ⟨c, r⟩ }

def dt : Command := ⟨.decodeTile, .rgba, false⟩
def cp : Command := ⟨.compose, .bgra, true⟩
def dc : Command := ⟨.decodeCompose, .rgba, false⟩

/-- STATUS right after the write of `v` to CMD in IDLE. -/
def statusAfter (v : Word) (r : OperandRegs) : Word := ((idle r).issue v).statusWord

/-- The next state of an outcome. -/
def next? : Host.Outcome State Fault Refusal → Option State
  | .next s => some s
  | .fault _ => none
  | .refused _ => none

/-- The host's answer to an instruction. -/
def answer (i : Instr) (s : State) : Option HostResponse := (next? (exec i s)).map (·.resp)

/-- STATUS after an instruction. -/
def statusOf (i : Instr) (s : State) : Option Word := (next? (exec i s)).map (·.statusWord)

/-- STATUS = 0x00001306, as a rejected opcode leaves it (R204's example). -/
def rejected : State := { State.reset with done := true, err := true, errcode := 3, errdetail := 1 }

/-! ### Ill-formed terms (R42, R106, R200, R208) -/

theorem test_wf_rd_misaligned : (Instr.rd 0x0A).wellFormed = false := by decide
theorem test_wf_reserved_misaligned : (Instr.wrReserved 0x3A 0).wellFormed = false := by decide
theorem test_wf_reserved_offset_of_a_register : (Instr.wrReserved 0x34 0).wellFormed = false := by decide
theorem test_wf_decode_tile_with_order : (Command.mk .decodeTile .bgra false).wellFormed = false := by decide
theorem test_wf_decode_tile_with_swap : (Command.mk .decodeTile .rgba true).wellFormed = false := by decide
theorem test_wf_accepts : (Instr.wrReserved 0x38 0).wellFormed = true ∧ (Instr.rd 0xFC).wellFormed = true := by decide

/-! ### Words written out from the encodings (R90 to R93, R106) -/

/-- Reserved bits 31 to 6, SWAP, CHORD, OPCODE (R90). -/
def commandBits (swap chord : BitVec 1) (opcode : BitVec 4) : Nat := (0#26 ++ swap ++ chord ++ opcode).toNat

/-- W, OFFSET (R106). -/
def busBits (w : BitVec 1) (offset : BitVec 8) : Nat := (w ++ offset).toNat

theorem test_decode_commands :
    decodeTableWord 32 (commandBits 0b0 0b0 0b0001) = some .decodeTile ∧
    decodeTableWord 32 (commandBits 0b0 0b0 0b0010) = some (.compose .rgba false) ∧
    decodeTableWord 32 (commandBits 0b0 0b1 0b0010) = some (.compose .bgra false) ∧
    decodeTableWord 32 (commandBits 0b1 0b0 0b0010) = some (.compose .rgba true) ∧
    decodeTableWord 32 (commandBits 0b1 0b1 0b0011) = some (.decodeCompose .bgra true) := by decide

theorem test_decode_bus_reads :
    decodeTableWord 16 (busBits 0b0 0b00000000) = some (.rd 0x00) ∧
    decodeTableWord 16 (busBits 0b0 0b00001000) = some (.rd 0x08) ∧
    decodeTableWord 16 (busBits 0b0 0b11111100) = some (.rd 0xFC) := by decide

theorem test_decode_bus_writes_of_control :
    decodeTableWord 16 (busBits 0b1 0b00000000) = some (.wrId 0) ∧
    decodeTableWord 16 (busBits 0b1 0b00000100) = some (.wrCtrl 0) ∧
    decodeTableWord 16 (busBits 0b1 0b00001000) = some (.wrStatus 0) ∧
    decodeTableWord 16 (busBits 0b1 0b00001100) = some (.wrCmd 0) := by decide

theorem test_decode_bus_writes_of_operands :
    decodeTableWord 16 (busBits 0b1 0b00010000) = some (.wrSrcAddr 0) ∧
    decodeTableWord 16 (busBits 0b1 0b00010100) = some (.wrSrcLen 0) ∧
    decodeTableWord 16 (busBits 0b1 0b00011000) = some (.wrDstAddr 0) ∧
    decodeTableWord 16 (busBits 0b1 0b00011100) = some (.wrDstLen 0) ∧
    decodeTableWord 16 (busBits 0b1 0b00100000) = some (.wrWidth 0) ∧
    decodeTableWord 16 (busBits 0b1 0b00100100) = some (.wrHeight 0) ∧
    decodeTableWord 16 (busBits 0b1 0b00101000) = some (.wrTileCount 0) ∧
    decodeTableWord 16 (busBits 0b1 0b00101100) = some (.wrTileIndex 0) := by decide

theorem test_decode_bus_writes_of_read_only :
    decodeTableWord 16 (busBits 0b1 0b00110000) = some (.wrOutWidth 0) ∧
    decodeTableWord 16 (busBits 0b1 0b00110100) = some (.wrOutHeight 0) ∧
    decodeTableWord 16 (busBits 0b1 0b00111000) = some (.wrReserved 0x38 0) ∧
    decodeTableWord 16 (busBits 0b1 0b01000000) = some (.wrReserved 0x40 0) ∧
    decodeTableWord 16 (busBits 0b1 0b11111100) = some (.wrReserved 0xFC 0) := by decide

/-- Reserved opcodes, reserved bits, misaligned offsets and bits above the format are refused by name (R93, R106). -/
theorem test_decode_refuses :
    (decodeTable 32 0x04 matches .error (.illegalWord .reservedOpcode)) = true ∧
    (decodeTable 32 0x40 matches .error (.illegalWord .reservedOpcode)) = true ∧
    (decodeTable 32 0x11 matches .error (.illegalWord .reservedBits)) = true ∧
    (decodeTable 32 0x43 matches .error (.illegalWord .reservedBits)) = true ∧
    (decodeTable 16 0x10A matches .error .misalignedOffset) = true ∧
    (decodeTable 16 0x200 matches .error .bitsAboveFormat) = true := by decide

/-- A value of a write reaches the instruction, and a narrow access is refused (R106, R200). -/
theorem test_decode_transaction :
    (decodeTransaction ⟨true, 4, 0x20, 513⟩ matches .ok (.wrWidth 513)) = true ∧
    (decodeTransaction ⟨false, 1, 0x08, 0⟩ matches .error .narrowAccess) = true := by decide

/-! ### The acceptance checks (vectors of 2.10) -/

theorem test_check_accepts :
    statusAfter 0x3 base = 0x00000001 ∧ statusAfter 0x1 base = 0x00000001 ∧
    statusAfter 0x2 { base with srcLen := 1048576 } = 0x00000001 ∧
    statusAfter 0x1 { base with tileIndex := 1, srcLen := 262144 } = 0x00000001 ∧
    statusAfter 0x1 { base with width := 0, tileCount := 7 } = 0x00000001 ∧
    statusAfter 0x22 { base with width := 1024, tileCount := 2, srcLen := 2097152, dstLen := 2097152 } = 0x00000001 ∧
    statusAfter 0x3 { base with width := 8192, height := 8192, tileCount := 256, srcLen := 33554432,
                                dstLen := 268435456 } = 0x00000001 := by decide

theorem test_check_illegal_words :
    statusAfter 0x0 base = 0x00001306 ∧ statusAfter 0x4 base = 0x00001306 ∧ statusAfter 0xF base = 0x00001306 ∧
    statusAfter 0x40 base = 0x00001306 ∧ statusAfter 0x11 base = 0x00002306 ∧ statusAfter 0x43 base = 0x00002306 ∧
    statusAfter 0x80000003 base = 0x00002306 := by decide

theorem test_check_geometry :
    statusAfter 0x3 { base with width := 0 } = 0x00001206 ∧
    statusAfter 0x3 { base with width := 513 } = 0x00001206 ∧
    statusAfter 0x3 { base with width := 8704 } = 0x00001206 ∧
    statusAfter 0x3 { base with width := 1 } = 0x00001206 ∧
    statusAfter 0x3 { base with height := 0 } = 0x00002206 ∧
    statusAfter 0x3 { base with width := 0, height := 0, dstLen := 0 } = 0x00001206 ∧
    statusAfter 0x3 { base with tileCount := 0 } = 0x00003206 ∧
    statusAfter 0x3 { base with tileCount := 2 } = 0x00003206 ∧
    statusAfter 0x3 { base with width := 1024 } = 0x00003206 := by decide

theorem test_check_source :
    statusAfter 0x3 { base with srcLen := 131071 } = 0x00004206 ∧
    statusAfter 0x2 base = 0x00004206 ∧
    statusAfter 0x1 { base with tileIndex := 1 } = 0x00004206 ∧
    statusAfter 0x1 { base with tileIndex := 0xFFFFFFFF, srcLen := 0xFFFFFFFF } = 0x00004206 ∧
    statusAfter 0x3 { base with srcAddr := 0xFFFE0001 } = 0x00001406 ∧
    statusAfter 0x3 { base with srcAddr := 0xFFFE0000, dstAddr := 0 } = 0x00000001 := by decide

theorem test_check_destination :
    statusAfter 0x3 { base with dstLen := 1048575 } = 0x00000106 ∧
    statusAfter 0x3 { base with dstAddr := 0xFFF00001 } = 0x00002406 ∧
    statusAfter 0x3 { base with dstAddr := 0xFFF00000 } = 0x00000001 ∧
    statusAfter 0x3 { base with dstAddr := 0x1001FFFF } = 0x00000506 ∧
    statusAfter 0x3 { base with dstAddr := 0x10020000 } = 0x00000001 ∧
    statusAfter 0x3 { base with dstAddr := 0x0FF00000 } = 0x00000001 ∧
    statusAfter 0x3 { base with dstAddr := 0x0FF00001 } = 0x00000506 := by decide

/-! ### Register access, one step each (vectors of 2.11, 2.12 and P6) -/

theorem test_read_after_reset :
    answer (.rd 0x00) State.reset = some (.data 0x45465401) ∧ answer (.rd 0x08) State.reset = some (.data 0) ∧
    answer (.rd 0x0C) State.reset = some (.data 0) ∧ answer (.rd 0x38) State.reset = some (.data 0) ∧
    answer (.rd 0xFC) State.reset = some (.data 0) := by decide

theorem test_read_operands :
    answer (.rd 0x10) (idle base) = some (.data 0x10000000) ∧ answer (.rd 0x2C) (idle base) = some (.data 0) ∧
    answer (.rd 0x24) (idle base) = some (.data 512) := by decide

theorem test_write_id_is_ignored : (next? (exec (.wrId 0) (idle base))).map (·.regs) = some base := by decide

theorem test_write_ctrl :
    (next? (exec (.wrCtrl 0x7FFFFFFF) State.reset)).map (·.ctrlWord) = some 1 ∧
    (next? (exec (.wrCtrl 0xFFFFFFFE) { State.reset with irqEn := true })).map (·.ctrlWord) = some 0 := by decide

theorem test_soft_reset_while_busy : statusOf (.wrCtrl 0x80000000) (busy dc base) = some 0 := by decide

theorem test_write_status :
    statusOf (.wrStatus 0x2) rejected = some 0x00001304 ∧ statusOf (.wrStatus 0x4) rejected = some 0x00000002 ∧
    statusOf (.wrStatus 0xE) rejected = some 0 ∧ statusOf (.wrStatus 0x1) (busy dc base) = some 1 := by decide

theorem test_write_cmd :
    statusOf (.wrCmd 0) State.reset = some 0x00001306 ∧ statusOf (.wrCmd 3) (idle base) = some 1 ∧
    statusOf (.wrCmd 1) (busy dc base) = some 0x00000009 := by decide

theorem test_write_width :
    (next? (exec (.wrWidth 513) State.reset)).map (·.regs.width) = some 513 ∧
    (next? (exec (.wrWidth 0x400) (busy dc base))).map (·.regs.width) = some 0x200 ∧
    statusOf (.wrWidth 0x400) (busy dc base) = some 0x00000009 := by decide

theorem test_write_each_operand :
    (next? (exec (.wrSrcAddr 9) (idle base))).map (·.regs) = some { base with srcAddr := 9 } ∧
    (next? (exec (.wrSrcLen 9) (idle base))).map (·.regs) = some { base with srcLen := 9 } ∧
    (next? (exec (.wrDstAddr 9) (idle base))).map (·.regs) = some { base with dstAddr := 9 } ∧
    (next? (exec (.wrDstLen 9) (idle base))).map (·.regs) = some { base with dstLen := 9 } ∧
    (next? (exec (.wrHeight 9) (idle base))).map (·.regs) = some { base with height := 9 } ∧
    (next? (exec (.wrTileCount 0xFFFFFFFF) (idle base))).map (·.regs) = some { base with tileCount := 0xFFFFFFFF } ∧
    (next? (exec (.wrTileIndex 9) (idle base))).map (·.regs) = some { base with tileIndex := 9 } := by decide

theorem test_write_read_only :
    (next? (exec (.wrOutWidth 7) { State.reset with outWidth := 512 })).map (·.outWidth) = some 512 ∧
    (next? (exec (.wrOutHeight 7) { State.reset with outHeight := 512 })).map (·.outHeight) = some 512 ∧
    (next? (exec (.wrReserved 0x40 5) (idle base))).map (·.regs) = some base := by decide

theorem test_irq :
    { State.reset with irqEn := true, done := true }.irq = true ∧ { State.reset with done := true }.irq = false ∧
    { busy dc base with irqEn := true }.irq = false := by decide

/-- A memory access and a reset of the host in IDLE are steps too (R213, R270). -/
theorem test_host_steps_in_idle :
    next? (step { idle base with host := [.memWrite 5 2] })
      = some { idle base with mem := [(5, 2)], resp := .done } ∧
    (next? (step { idle base with mem := [(5, 2)], host := [.memRead 5] })).map (·.resp) = some (.byte 2) ∧
    (next? (step { idle base with host := [.hardReset] })).map (·.regs) = some .reset := by decide

/-- The same access by its address: at regBase + 0x08, STATUS is read, whatever regBase is (R251). -/
theorem test_access_at_reg_base :
    hostTurn (.busAt ⟨false, 4, Config.regBase + 0x08, 0⟩) (idle base) = .run (.rd 0x08) (idle base) := by
  simp only [hostTurn, BusAccess.transaction_in (o := 0x08) (b := ⟨false, 4, Config.regBase + 0x08, 0⟩) rfl]
  rfl

theorem test_bus_error_changes_nothing :
    next? (step { idle base with host := [.bus ⟨false, 4, 0x0A, 0⟩] }) = some { idle base with resp := .busError } := by
  decide

/-! ### The engine completes: dimensions, status and ranges (R140, R170, vectors of 2.7) -/

theorem test_decode_tile_completes :
    ∃ t, exec .decodeTile (busy dt base) = .next t ∧ t.outWidth = 512 ∧ t.outHeight = 512 ∧ t.statusWord = 2 :=
  ⟨_, rfl, rfl, rfl, rfl⟩

theorem test_compose_swap_dimensions :
    ∃ t, exec (.compose .rgba true) (busy cp { base with width := 2048, height := 1024, tileCount := 8 }) = .next t ∧
      t.outWidth = 1024 ∧ t.outHeight = 2048 ∧ t.statusWord = 2 :=
  ⟨_, rfl, rfl, rfl, rfl⟩

theorem test_decode_compose_dimensions :
    ∃ t, exec (.decodeCompose .rgba false) (busy dc { base with width := 1024, tileCount := 2 }) = .next t ∧
      t.outWidth = 1024 ∧ t.outHeight = 512 ∧ t.statusWord = 2 :=
  ⟨_, rfl, rfl, rfl, rfl⟩

/-! ### The decoder's datapath (vectors of 2.1 to 2.5) -/

theorem test_exp5 :
    [3, 7, 15, 16, 24, 28, 31].map exp5 = [25, 58, 123, 132, 197, 230, 255] := by decide

theorem test_exp6 :
    [0, 11, 15, 16, 31, 48, 52, 63].map exp6 = [0, 45, 61, 65, 125, 194, 210, 255] := by decide

theorem test_to888 :
    to888 0xF800 = ⟨255, 0, 0⟩ ∧ to888 0x1234 = ⟨16, 69, 165⟩ ∧ to888 0x7FFF = ⟨123, 255, 255⟩ ∧
    to888 0x8410 = ⟨132, 130, 132⟩ := by decide

theorem test_palette_four :
    palette 0xF800 0x001F = ⟨⟨255, 0, 0⟩, ⟨0, 0, 255⟩, ⟨170, 0, 85⟩, ⟨85, 0, 170⟩⟩ ∧
    palette 0x8000 0x7FFF = ⟨⟨132, 0, 0⟩, ⟨123, 255, 255⟩, ⟨129, 85, 85⟩, ⟨126, 170, 170⟩⟩ ∧
    palette 0x8410 0x0841 = ⟨⟨132, 130, 132⟩, ⟨8, 8, 8⟩, ⟨90, 89, 90⟩, ⟨49, 48, 49⟩⟩ := by decide

theorem test_palette_three :
    palette 0x001F 0xF800 = ⟨⟨0, 0, 255⟩, ⟨255, 0, 0⟩, ⟨127, 0, 127⟩, ⟨0, 0, 0⟩⟩ ∧
    palette 0xFFFF 0xFFFF = ⟨⟨255, 255, 255⟩, ⟨255, 255, 255⟩, ⟨255, 255, 255⟩, ⟨0, 0, 0⟩⟩ ∧
    palette 0x1233 0x1234 = ⟨⟨16, 69, 156⟩, ⟨16, 69, 165⟩, ⟨16, 69, 160⟩, ⟨0, 0, 0⟩⟩ := by decide

theorem test_selector :
    (List.range 4).map (fun x => selector 0xE4E4E4E4 x 2) = [0, 1, 2, 3] ∧
    (List.range 4).map (fun x => selector 0x80000000 x 3) = [0, 0, 0, 2] ∧
    (List.range 4).map (fun y => selector 0x55AA55AA 1 y) = [2, 1, 2, 1] := by decide

/-- W5, W6 and the last row of 2.4. -/
theorem test_decode_block :
    decodeBlock 0xF800 0x001F 0 2 1 = ⟨255, 0, 0, 255⟩ ∧ decodeBlock 0x001F 0xF800 0 2 1 = ⟨0, 0, 255, 255⟩ ∧
    decodeBlock 0x001F 0xF800 0xFFFFFFFF 0 3 = ⟨0, 0, 0, 255⟩ ∧
    decodeBlock 0xF800 0x001F 0xFFFFFFFF 0 3 = ⟨85, 0, 170, 255⟩ ∧
    decodeBlock 0x07E0 0x0000 0x80000001 0 0 = ⟨0, 0, 0, 255⟩ ∧
    decodeBlock 0x07E0 0x0000 0x80000001 3 3 = ⟨0, 170, 0, 255⟩ ∧
    decodeBlock 0x07E0 0x0000 0x80000001 1 0 = ⟨0, 255, 0, 255⟩ := by decide

theorem test_addresses :
    blockAddr 0x10000000 1 2 = 0x10000808 ∧ blockAddr 0x10000000 127 127 = 0x1001FFF8 ∧
    tilePixelNumber 1 1 2 3 = 3590 ∧ tilePixelNumber 127 127 3 3 = 262143 := by decide

/-- The eight bytes of a block from `a` on. -/
def blockBytes (a : Nat) (l : List Byte) : Memory := (List.range l.length).zipWith (fun i b => (a + i, b)) l

/-- The block `34 12 33 12 78 56 34 12` of 2.2 at address 0. -/
def sampleBlock : Memory := blockBytes 0 [0x34, 0x12, 0x33, 0x12, 0x78, 0x56, 0x34, 0x12]

theorem test_block_fields :
    color0At .little sampleBlock 0 = 0x1234 ∧ color1At .little sampleBlock 0 = 0x1233 ∧
    codesAt .little sampleBlock 0 = 0x12345678 ∧
    color0At .big (blockBytes 0 [0xF8, 0x00, 0x00, 0x1F, 0, 0, 0, 0]) 0 = 0xF800 := by decide

/-- Block (2, 0) of P4 at the start of its tile. -/
def blockTwo : Memory := blockBytes 16 [0x00, 0xF8, 0x1F, 0x00, 0xE4, 0xE4, 0xE4, 0xE4]

/-- P4: decoded pixels (8, 0), (9, 3) and (11, 0), byte by byte. -/
theorem test_decoded_tile_bytes :
    (List.range 4).map (fun k => decodedTileByte .little blockTwo 0 (4 * 8 + k)) = [0xFF, 0x00, 0x00, 0xFF] ∧
    (List.range 4).map (fun k => decodedTileByte .little blockTwo 0 (4 * (3 * 512 + 9) + k)) = [0x00, 0x00, 0xFF, 0xFF] ∧
    (List.range 4).map (fun k => decodedTileByte .little blockTwo 0 (4 * 11 + k)) = [0x55, 0x00, 0xAA, 0xFF] := by decide

/-! ### The compositor's datapath (vectors of 2.6 to 2.9) -/

theorem test_remap :
    remap (0, 0) = (8, 0) ∧ remap (503, 9) = (511, 9) ∧ remap (504, 0) = (0, 4) ∧ remap (504, 508) = (0, 0) ∧
    remap (505, 511) = (1, 3) ∧ remap (511, 511) = (7, 3) := by decide

theorem test_unmap :
    unmap (8, 0) = (0, 0) ∧ unmap (0, 0) = (504, 508) ∧ unmap (7, 3) = (511, 511) ∧ unmap (3, 2) = (507, 510) ∧
    unmap (511, 511) = (503, 511) := by decide

theorem test_dest_number :
    destNumber 1024 0 1 5 3 = 3589 ∧ destNumber 512 1 0 0 0 = 262144 ∧ destNumber 1024 1 1 511 511 = 1048575 ∧
    destNumber 8192 15 15 511 511 = 67108863 := by decide

theorem test_strides :
    (heightStride 2048 1024 true, widthStride 2048 1024 true) = (2048, 1024) ∧
    (heightStride 1024 512 false, widthStride 1024 512 false) = (512, 1024) := by decide

theorem test_placed_bytes :
    (List.range 4).map (placedByte .bgra ⟨1, 2, 3, 9⟩) = [0x03, 0x02, 0x01, 0xFF] ∧
    (List.range 4).map (placedByte .rgba ⟨1, 2, 3, 9⟩) = [0x01, 0x02, 0x03, 0xFF] := by decide

/-- P4 through DECODE_COMPOSE: output pixels (0, 0) and (3, 3) come from block (2, 0) (2.9). -/
theorem test_image_bytes :
    (List.range 4).map (fun k => imageByte (fun _ i => decodeTilePixel .little blockTwo 0 i) .rgba 512 k)
      = [0xFF, 0x00, 0x00, 0xFF] ∧
    (List.range 4).map (fun k => imageByte (fun _ i => decodeTilePixel .little blockTwo 0 i) .bgra 512
      (4 * (3 * 512 + 3) + k)) = [0xAA, 0x00, 0x55, 0xFF] := by decide

/-- The R175 example: decoded pixel (8, 0) is (1, 2, 3, 9), and COMPOSE.BGRA puts it at output pixel (0, 0). -/
theorem test_stored_image_bytes :
    (List.range 4).map (imageByte (storedTile (blockBytes 32 [1, 2, 3, 9]) 0) .bgra 512)
      = [0x03, 0x02, 0x01, 0xFF] := by decide

/-! ### Witnesses: for each statement with hypotheses, what meets them together; for a range, at its ends -/

/-- COMPOSE of one decoded tile from 0x10000000 to 0x20000000. -/
def composeBase : OperandRegs := { base with srcLen := 1048576 }

theorem busy_inv {c : Command} {r : OperandRegs} (hc : c.wellFormed = true) (hr : checkOperands c.op r = none) :
    (busy c r).Inv where
  busyStatus _ := ⟨rfl, rfl, rfl, rfl⟩
  noError _ := ⟨rfl, rfl⟩
  error h := by cases h
  dims := .inl ⟨rfl, rfl⟩
  snapshot sn h := by
    injection h with h
    subst h
    exact ⟨rfl, hc, hr⟩
  memory := Memory.wf_nil
  faultSet := List.nodup_nil

/-- DecodeInvertsEncode, at the ends of the reserved offsets. -/
theorem witness_wellFormed :
    (Instr.wrReserved 0x38 7).wellFormed = true ∧ (Instr.wrReserved 0xFC 7).wellFormed = true ∧
    (Instr.rd 0x00).wellFormed = true ∧ (Instr.rd 0xFC).wellFormed = true := by decide

/-- CommandWordsEncodeBack and the last clause of NineLegalCommandWords. -/
theorem witness_legal_word : decodeCommandWord 0x33 = .ok ⟨.decodeCompose, .bgra, true⟩ := rfl

/-- TransactionsSelectTheirOperation (both clauses) and IllFormedTransactionsChangeNothing. -/
theorem witness_transactions :
    ((4 : Nat) = 4 ∧ (0xFC : BitVec 8).toNat % 4 = 0) ∧ ¬ ((3 : Nat) = 4 ∧ (0xFC : BitVec 8).toNat % 4 = 0) ∧
    ¬ ((4 : Nat) = 4 ∧ (0xFF : BitVec 8).toNat % 4 = 0) := by decide

/-- StepRunsTheHostsInstruction, its first clause, with each kind of action but a transaction. -/
theorem witness_host_actions :
    ∀ a ∈ [HostAction.memRead 5, .memWrite 5 2, .hardReset, .busAt ⟨true, 4, Config.regBase, 0⟩],
      let s := { idle base with host := [a] }
      s.faults = [] ∧ s.engine = .idle ∧ s.host = a :: [] := fun _ _ => ⟨rfl, rfl, rfl⟩

/-- WindowStandsAtRegBase: the window's first and last byte, and the first address after it. -/
theorem witness_window :
    Config.regBase = Config.regBase + (0x00 : BitVec 8).toNat ∧
    Config.regBase + 255 = Config.regBase + (0xFF : BitVec 8).toNat ∧
    ∀ o : BitVec 8, Config.regBase + 256 ≠ Config.regBase + o.toNat :=
  ⟨rfl, rfl, fun o h => by have := o.isLt; omega⟩

/-- StepRunsTheHostsInstruction, its second clause, and the first clause of PhaseChangesOnlyAsStated: an accepted CMD write. -/
theorem witness_host_step :
    let s := { idle base with host := [.bus ⟨true, 4, 0x0C, 3⟩] }
    s.faults = [] ∧ s.engine = .idle ∧ s.host = .bus ⟨true, 4, 0x0C, 3⟩ :: [] ∧
    (HostAction.bus ⟨true, 4, 0x0C, 3⟩).transaction = some ⟨true, 4, 0x0C, 3⟩ ∧
    decodeTransaction ⟨true, 4, 0x0C, 3⟩ = .ok (.wrCmd 3) ∧ s.busy = false ∧
    ∃ t, step s = .next t ∧ t.busy = true := ⟨rfl, rfl, rfl, rfl, rfl, rfl, _, rfl, rfl⟩

/-- IllFormedTransactionsChangeNothing, its second clause. -/
theorem witness_ill_formed_step :
    let s := { idle base with host := [.bus ⟨false, 4, 0xFF, 0⟩] }
    s.faults = [] ∧ s.engine = .idle ∧ s.host = .bus ⟨false, 4, 0xFF, 0⟩ :: [] := ⟨rfl, rfl, rfl⟩

/-- StepRunsTheEnginesCommand, the second clause of PhaseChangesOnlyAsStated, AcceptedCommandAlwaysCompletes and
BusyEndsOnceTheHostIsDone. -/
theorem witness_engine_step :
    (busy dc base).faults = [] ∧ (busy dc base).engine = .busy ⟨dc, base⟩ ∧ (busy dc base).host = [] ∧
    (busy dc base).busy = true ∧ (busy dc base).Inv ∧ ∃ t, step (busy dc base) = .next t ∧ t.busy = false :=
  ⟨rfl, rfl, rfl, rfl, busy_inv rfl rfl, _, rfl, rfl⟩

/-- BusyStepIsEitherAgents. -/
theorem witness_busy_with_host :
    let s := { busy dc base with host := [.hardReset] }
    s.faults = [] ∧ s.engine = .busy ⟨dc, base⟩ ∧ s.host = .hardReset :: [] := ⟨rfl, rfl, rfl⟩

/-- PlacedWordRunsNext, in both formats. -/
theorem witness_placed_words :
    decodeTableWord 32 0x33 = some (.decodeCompose .bgra true) ∧ decodeTableWord 16 0x1FC = some (.wrReserved 0xFC 0) :=
  ⟨rfl, rfl⟩

/-- WaitsInIdle. -/
theorem witness_waiting : State.reset.faults = [] ∧ State.reset.engine = .idle ∧ State.reset.host = [] := ⟨rfl, rfl, rfl⟩

/-- SoftResetInIdle, SoftResetWhileBusy and the soft reset of InterruptOutput. -/
theorem witness_soft_reset :
    (idle base).engine = .idle ∧ (busy dc base).engine = .busy ⟨dc, base⟩ ∧ (0x80000000 : Word).getLsbD 31 = true ∧
    ∃ t, exec (.wrCtrl 0x80000000) (busy dc base) = .next t := ⟨rfl, rfl, rfl, _, rfl⟩

/-- RegisterReads and ReadOnlyWritesChangeNothing, at the ends of the reserved offsets; both clauses of
IllFormedOperandsChangeNothing. -/
theorem witness_reads :
    (0x38 ≤ (0x38 : BitVec 8).toNat ∧ (0x38 : BitVec 8).toNat % 4 = 0) ∧
    (0x38 ≤ (0xFC : BitVec 8).toNat ∧ (0xFC : BitVec 8).toNat % 4 = 0) ∧
    (0x01 : BitVec 8).toNat % 4 ≠ 0 ∧ (0xFF : BitVec 8).toNat % 4 ≠ 0 ∧
    ((0x34 : BitVec 8).toNat % 4 = 0 ∧ (0x34 : BitVec 8).toNat < 0x38) := by decide

theorem witness_reads_in_busy : (busy dc base).Inv ∧ (busy dc base).snapshot = some ⟨dc, base⟩ :=
  ⟨busy_inv rfl rfl, rfl⟩

/-- CtrlWriteSetsOnlyIrqEnable and the IRQ_EN clause of InterruptOutput. -/
theorem witness_ctrl :
    (0x7FFFFFFE : Word).getLsbD 31 = false ∧ (0 : Word).getLsbD 31 = false ∧
    (0 : Word).getLsbD 0 = (0x7FFFFFFE : Word).getLsbD 0 ∧ 1 ≤ 1 ∧ 1 ≤ 31 ∧
    ∃ t, exec (.wrCtrl 0x7FFFFFFE) (busy dc base) = .next t := ⟨rfl, rfl, rfl, by decide, by decide, _, rfl⟩

/-- WritesWhileBusyAreDiscarded, its first and its last instruction. -/
theorem witness_busy_writes :
    (busy dc base).engine = .busy ⟨dc, base⟩ ∧
    Instr.wrSrcAddr 5 ∈ [.wrSrcAddr 5, .wrSrcLen 5, .wrDstAddr 5, .wrDstLen 5, .wrWidth 5, .wrHeight 5, .wrTileCount 5,
      .wrTileIndex 5, .wrCmd 5] ∧
    Instr.wrCmd 5 ∈ [.wrSrcAddr 5, .wrSrcLen 5, .wrDstAddr 5, .wrDstLen 5, .wrWidth 5, .wrHeight 5, .wrTileCount 5,
      .wrTileIndex 5, .wrCmd 5] := ⟨rfl, by decide, by decide⟩

/-- RejectionReportsTheError, with the last error of the order. -/
theorem witness_rejection :
    let s := idle { base with dstAddr := 0x1001FFFF }
    s.engine = .idle ∧ check 0x3 s.regs = .error .overlap := ⟨rfl, rfl⟩

/-- IllegalWordsAreRejected: each clause at its boundary words. -/
theorem witness_illegal_words :
    (idle base).engine = .idle ∧ (0x4 : Word).toNat % 16 ∉ [1, 2, 3] ∧ (0xFFFFFFF0 : Word).toNat % 16 ∉ [1, 2, 3] ∧
    ((0x11 : Word).toNat % 16 = 1 ∧ (0x11 : Word).toNat / 16 ≠ 0) ∧
    ((0x42 : Word).toNat % 16 ∈ [2, 3] ∧ (0x42 : Word).toNat / 64 ≠ 0) ∧
    ((0x80000003 : Word).toNat % 16 ∈ [2, 3] ∧ (0x80000003 : Word).toNat / 64 ≠ 0) := ⟨rfl, by decide⟩

/-- AcceptanceLatchesTheSnapshot, CommandsAreIssuedByTheirWord and the acceptance of InterruptOutput. -/
theorem witness_acceptance :
    (idle base).engine = .idle ∧ check 0x3 (idle base).regs = .ok dc ∧ ∃ t, exec (.wrCmd 0x3) (idle base) = .next t :=
  ⟨rfl, rfl, _, rfl⟩

/-- DecodeTileCompletes, with both ranges ending at 2^32, and the last pixel of the last block. -/
theorem witness_decode_tile :
    let r := { base with srcAddr := 0xFFFC0000, tileIndex := 1, dstAddr := 0xFFF00000 }
    (busy dt r).engine = .busy ⟨dt, r⟩ ∧ r.srcAddr.toNat + 131072 * r.tileIndex.toNat + 131072 ≤ 2 ^ 32 ∧
    r.dstAddr.toNat + 1048576 ≤ 2 ^ 32 ∧ (127 : Nat) < 128 ∧ (3 : Nat) < 4 := ⟨rfl, by decide⟩

/-- The largest image, its buffers ending at 2^32. -/
def largest : OperandRegs :=
  { base with srcAddr := 0xF0000000, dstAddr := 0xF0000000, width := 8192, height := 8192, tileCount := 256 }

/-- ComposeCompletes, at the largest image and its last pixel. -/
theorem witness_compose :
    (busy cp largest).engine = .busy ⟨cp, largest⟩ ∧
    largest.srcAddr.toNat + 1048576 * largest.tileCount.toNat ≤ 2 ^ 32 ∧
    largest.dstAddr.toNat + largest.width.toNat * largest.height.toNat * 4 ≤ 2 ^ 32 ∧
    8191 < largest.width.toNat ∧ 8191 < largest.height.toNat := ⟨rfl, by decide⟩

/-- DecodeComposeCompletes, at the largest image and its last pixel. -/
theorem witness_decode_compose :
    (busy dc largest).engine = .busy ⟨dc, largest⟩ ∧
    largest.srcAddr.toNat + 131072 * largest.tileCount.toNat ≤ 2 ^ 32 ∧
    largest.dstAddr.toNat + largest.width.toNat * largest.height.toNat * 4 ≤ 2 ^ 32 ∧
    8191 < largest.width.toNat ∧ 8191 < largest.height.toNat := ⟨rfl, by decide⟩

/-- ResultDependsOnSourceBytesOnly: two memories that differ outside the source range only. -/
theorem witness_same_source :
    let s := busy dc base
    let s' := { busy dc base with mem := [(0, 1)], done := true }
    s.engine = .busy ⟨dc, base⟩ ∧ s'.engine = .busy ⟨dc, base⟩ ∧ checkOperands .decodeCompose base = none ∧
    Memory.SameInside (Snapshot.source ⟨dc, base⟩) s.mem s'.mem := by
  refine ⟨rfl, rfl, rfl, ?_⟩
  intro a ha
  rw [ByteRange.contains_iff] at ha
  have h0 : (0, (1 : Byte)).1 ≠ a := by
    rintro rfl
    exact absurd ha.1 (by decide)
  show Memory.read [(0, 1)] a = Memory.read [] a
  rw [Memory.read, Memory.find_cons, if_neg h0]
  rfl

/-- DecodeComposeEqualsDecodeThenCompose: a scratch buffer that ends at 2^32. -/
theorem witness_scratch :
    checkOperands .decodeCompose base = none ∧
    (0xFFF00000 : Word).toNat + 1048576 * base.tileCount.toNat ≤ 2 ^ 32 ∧
    (sourceRange .decodeCompose base).overlaps ⟨(0xFFF00000 : Word).toNat, 1048576 * base.tileCount.toNat⟩ = false := by
  decide

/-- LoopNestGivesTheClosedForm and DestinationNumbersCoverTheImage: the ends of the legal dimensions. -/
theorem witness_dimensions : legalDim 512 = true ∧ legalDim 8192 = true := by decide

/-- DestinationNumbersCoverTheImage: the last cell, position and number of the largest image. -/
theorem witness_last_destination :
    15 < heightStride 8192 8192 true / 512 ∧ 15 < widthStride 8192 8192 true / 512 ∧ (511 : Nat) < 512 ∧
    67108863 < 8192 * 8192 := by decide

/-- BlockPixelsFollowTheirSelectors (a pixel with selector 0 too), ExpansionRounds, TilePixelNumbersAreABijection and
RemapIsABijection: the last value of each range. -/
theorem witness_ranges :
    (3 : Nat) < 4 ∧ (0 : BitVec 32).toNat / 2 ^ ((3 * 4 + 3) * 2) % 4 = 0 ∧ (31 : Nat) < 32 ∧ (63 : Nat) < 64 ∧
    (127 : Nat) < 128 ∧ (262143 : Nat) < 262144 ∧ (511 : Nat) < 512 := by decide

/-- HostMemoryReads: a byte just outside the destination range. -/
theorem witness_host_read :
    (busy dc base).engine = .busy ⟨dc, base⟩ ∧ (Snapshot.dest ⟨dc, base⟩).contains (0x1FFFFFFF : Word).toNat = false ∧
    (Snapshot.dest ⟨dc, base⟩).contains (0x20100000 : Word).toNat = false := ⟨rfl, by decide⟩

/-- HostMemoryWrites: the first and last bytes of the ranges, and bytes just outside both. -/
theorem witness_host_write :
    (Snapshot.source ⟨dc, base⟩).contains (0x10000000 : Word).toNat = true ∧
    (Snapshot.dest ⟨dc, base⟩).contains (0x200FFFFF : Word).toNat = true ∧
    ((Snapshot.source ⟨dc, base⟩).contains (0x10020000 : Word).toNat = false ∧
      (Snapshot.dest ⟨dc, base⟩).contains (0x10020000 : Word).toNat = false) := by decide

/-- RaceEndsTheRun and ModelFaultsPersist. -/
theorem witness_model_fault :
    let s := { idle base with faults := [.hostRace] }
    s.faults ≠ [] ∧ ModelFault.hostRace ∈ s.faults ∧ (∃ t, exec (.rd 0x08) s = .next t) ∧
    ∃ t, (hostTurn (.memWrite 5 2) s).outcome = .next t := ⟨by decide, by decide, ⟨_, rfl⟩, _, rfl⟩

/-- StepKeepsInvariant, from a state that a step changes. -/
theorem witness_invariant_step : (busy cp composeBase).Inv ∧ ∃ t, step (busy cp composeBase) = .next t :=
  ⟨busy_inv rfl rfl, _, rfl⟩

/-- MemoryChangesOnlyInTheDestination: a host write that changes a byte. -/
theorem witness_memory_change :
    let s := { idle base with mem := [(5, 1)], host := [.memWrite 5 2] }
    ∃ t, step s = .next t ∧ Memory.read t.mem 5 ≠ Memory.read s.mem 5 := ⟨_, rfl, by decide⟩

/-- FrozenWhileBusy: a write that the host makes while BUSY. -/
theorem witness_frozen :
    (busy dc base).busy = true ∧
    ∃ t, (hostTurn (.bus ⟨true, 4, 0x20, 1024⟩) (busy dc base)).outcome = .next t ∧ t.busy = true :=
  ⟨rfl, _, rfl, rfl⟩

/-- InterruptOutput: the clauses that witness_soft_reset, witness_ctrl and witness_acceptance leave. -/
theorem witness_interrupt :
    (busy dc base).Inv ∧ (busy dc base).busy = true ∧ (0x2 : Word).getLsbD 1 = true ∧
    (∃ t, exec (.wrStatus 0x2) { State.reset with irqEn := true, done := true } = .next t) ∧
    ∃ t, (hostTurn .hardReset (busy dc base)).outcome = .next t := ⟨busy_inv rfl rfl, rfl, rfl, ⟨_, rfl⟩, _, rfl⟩

/-- CommandFrame, each command in each phase. -/
theorem witness_command_frame :
    (∃ t, exec .decodeTile (idle base) = .next t) ∧ (∃ t, exec .decodeTile (busy dt base) = .next t) ∧
    (∃ t, exec (.compose .bgra true) (idle base) = .next t) ∧
    (∃ t, exec (.compose .bgra true) (busy cp composeBase) = .next t) ∧
    (∃ t, exec (.decodeCompose .rgba false) (idle base) = .next t) ∧
    ∃ t, exec (.decodeCompose .rgba false) (busy dc base) = .next t :=
  ⟨⟨_, rfl⟩, ⟨_, rfl⟩, ⟨_, rfl⟩, ⟨_, rfl⟩, ⟨_, rfl⟩, _, rfl⟩

/-- BusOperationFrame and FlagEffects: an operand write, in IDLE and in BUSY. -/
theorem witness_bus_frame :
    (∀ e, encode (.wrWidth 9) ≠ .command e) ∧ (∃ t, exec (.wrWidth 9) (idle base) = .next t) ∧
    ∃ t, exec (.wrWidth 9) (busy dc base) = .next t := ⟨fun _ h => Encoding.noConfusion h, ⟨_, rfl⟩, _, rfl⟩

/-- FlagEffects: a CMD write that is rejected and one that is accepted. -/
theorem witness_flag_effects :
    (∃ t, exec (.wrCmd 0x0) (idle base) = .next t ∧ t.err = true) ∧
    (∃ t, exec (.wrCmd 0x3) (idle base) = .next t ∧ t.busy = true) ∧
    ∃ t, exec (.wrCtrl 0x80000000) (idle base) = .next t := ⟨⟨_, rfl, rfl⟩, ⟨_, rfl, rfl⟩, _, rfl⟩

end Sys2Proof.Tests
end

section
/-! PROOFS. What a command reads: where two memories agree on the source range of a command that passed its checks, the
decoded blocks, the tiles and the bytes of the output agree (R19, R61). -/

namespace Sys2Proof.Machine

/-! ### Memories that agree on a range -/

theorem Memory.SameInside.read_eq {r : ByteRange} {m m' : Memory} (h : Memory.SameInside r m m') {a : Nat}
    (h1 : r.start ≤ a) (h2 : a < r.start + r.len) : Memory.read m' a = Memory.read m a :=
  h a (ByteRange.contains_iff.mpr ⟨h1, h2⟩)

/-- Memories that agree on a range agree on every range within it. -/
theorem Memory.SameInside.mono {r d : ByteRange} {m m' : Memory} (h : Memory.SameInside r m m')
    (h1 : r.start ≤ d.start) (h2 : d.start + d.len ≤ r.start + r.len) : Memory.SameInside d m m' := by
  intro a ha
  obtain ⟨h3, h4⟩ := ByteRange.contains_iff.mp ha
  exact h.read_eq (by omega) (by omega)

theorem memRead_congr {m m' : Memory} {a n : Nat} (h : Memory.SameInside ⟨a, n⟩ m m') (order : ByteOrder) :
    memRead order m' a n = memRead order m a n := by
  have hb : ∀ i ∈ List.range n, Memory.read m' (a + i) = Memory.read m (a + i) := fun i hi =>
    h.read_eq (Nat.le_add_right a i) (Nat.add_lt_add_left (List.mem_range.mp hi) a)
  cases order with
  | little => exact congrArg List.sum (List.map_congr_left fun i hi => by rw [hb i hi])
  | big => exact congrArg List.sum (List.map_congr_left fun i hi => by rw [hb i hi])

/-! ### Tiles -/

/-- A block's pixels depend on its eight bytes alone (R94, R101). -/
theorem decodeBlockAt_congr {m m' : Memory} {a : Nat} (h : Memory.SameInside ⟨a, 8⟩ m m') (order : ByteOrder)
    (xb yb : Nat) : decodeBlockAt order m' a xb yb = decodeBlockAt order m a xb yb := by
  have h0 : memRead order m' a 2 = memRead order m a 2 := memRead_congr (h.mono (by simp) (by simp)) order
  have h1 : memRead order m' (a + 2) 2 = memRead order m (a + 2) 2 :=
    memRead_congr (h.mono (by simp) (by simp)) order
  have h2 : memRead order m' (a + 4) 4 = memRead order m (a + 4) 4 :=
    memRead_congr (h.mono (by simp) (by simp)) order
  simp only [decodeBlockAt, color0At, color1At, codesAt, h0, h1, h2]

/-- The block that holds a pixel of a compressed tile lies within the tile's 131072 bytes (R97, R121). -/
theorem blockAddr_within_tile (tb : Nat) {i : Nat} (hi : i < 262144) :
    tb ≤ blockAddr tb (i % 512 / 4) (i / 512 / 4) ∧
      blockAddr tb (i % 512 / 4) (i / 512 / 4) + 8 ≤ tb + 131072 := by
  simp only [blockAddr, Config.blockBytes, Config.blocksPerRow]
  omega

/-- A compressed tile's pixels depend on its bytes alone (R132). -/
theorem decodeTilePixel_congr {m m' : Memory} {tb : Nat} (h : Memory.SameInside ⟨tb, 131072⟩ m m')
    (order : ByteOrder) {i : Nat} (hi : i < 262144) :
    decodeTilePixel order m' tb i = decodeTilePixel order m tb i := by
  obtain ⟨h1, h2⟩ := blockAddr_within_tile tb hi
  exact decodeBlockAt_congr (h.mono h1 h2) order _ _

/-- The bytes of a decoded tile depend on the bytes of the compressed one alone (R140). -/
theorem decodedTileByte_congr {m m' : Memory} {tb : Nat} (h : Memory.SameInside ⟨tb, 131072⟩ m m')
    (order : ByteOrder) {k : Nat} (hk : k < 1048576) :
    decodedTileByte order m' tb k = decodedTileByte order m tb k := by
  have hp : k / Config.pixelBytes < 262144 := Nat.div_lt_of_lt_mul hk
  rw [decodedTileByte, decodedTileByte, decodeTilePixel_congr h order hp]

theorem pixelAt_congr {m m' : Memory} {base p : Nat} (h : Memory.SameInside ⟨base + 4 * p, 4⟩ m m') :
    pixelAt m' base p = pixelAt m base p := by
  rw [pixelAt, pixelAt, h.read_eq (a := base + 4 * p) (by simp) (by simp),
    h.read_eq (a := base + 4 * p + 1) (by simp) (by simp),
    h.read_eq (a := base + 4 * p + 2) (by simp [Nat.add_assoc]) (by simp),
    h.read_eq (a := base + 4 * p + 3) (by simp [Nat.add_assoc]) (by simp)]

/-- Tile sequences that agree on every pixel of the first `n` tiles. -/
def SameTiles (n : Nat) (tile tile' : Nat → Nat → Pixel) : Prop :=
  ∀ t p, t < n → p < 262144 → tile' t p = tile t p

/-- The decoded tiles of COMPOSE depend on its source bytes alone (R161). -/
theorem storedTile_sameTiles {m m' : Memory} {src n : Nat} (h : Memory.SameInside ⟨src, 1048576 * n⟩ m m') :
    SameTiles n (storedTile m src) (storedTile m' src) := by
  intro t p ht hp
  refine pixelAt_congr (h.mono ?_ ?_) <;> simp only [Config.dtileBytes] <;> omega

/-- The tiles that DECODE_COMPOSE decodes depend on its source bytes alone (R190). -/
theorem decodedTile_sameTiles {m m' : Memory} {src n : Nat} (h : Memory.SameInside ⟨src, 131072 * n⟩ m m') :
    SameTiles n (decodedTile m src) (decodedTile m' src) := by
  intro t p ht hp
  refine decodeTilePixel_congr (h.mono ?_ ?_) _ hp <;> simp only [Config.ctileBytes] <;> omega

/-! ### The image -/

theorem remapX_lt (x : Nat) : remapX x < 512 := Nat.mod_lt _ (by decide)

theorem remapY_lt (x : Nat) {y : Nat} (hy : y < 512) : remapY x y < 512 := by
  unfold remapY
  split
  · exact Nat.mod_lt _ (by decide)
  · exact hy

/-- A pixel of an image of `rows` by `cols` tiles reads a pixel of one of those tiles (R163, R165). -/
theorem imagePixel_congr {tile tile' : Nat → Nat → Pixel} {rows cols x y : Nat}
    (h : SameTiles (rows * cols) tile tile') (hx : x < 512 * cols) (hy : y < 512 * rows) :
    imagePixel tile' (512 * cols) x y = imagePixel tile (512 * cols) x y := by
  have hcols : 512 * cols / 512 = cols := Nat.mul_div_cancel_left _ (by decide)
  have ht : y / 512 * (512 * cols / 512) + x / 512 < rows * cols := by
    rw [hcols]
    exact rowMajor_lt (Nat.div_lt_of_lt_mul hy) (Nat.div_lt_of_lt_mul hx)
  have hp : remapY (x % 512) (y % 512) * 512 + remapX (x % 512) < 512 * 512 :=
    rowMajor_lt (remapY_lt _ (Nat.mod_lt _ (by decide))) (remapX_lt _)
  exact h _ _ ht hp

/-- The image of a legal geometry depends on the pixels of its tiles alone (R160, R173). -/
theorem imageByte_congr {tile tile' : Nat → Nat → Pixel} {w h : Nat} (hw : legalDim w = true)
    (hh : legalDim h = true) (ht : SameTiles (w / 512 * (h / 512)) tile tile') (order : ChannelOrder) (swap : Bool)
    {k : Nat} (hk : k < w * h * 4) :
    imageByte tile' order (widthStride w h swap) k = imageByte tile order (widthStride w h swap) k := by
  obtain ⟨rows, cols, -, hcols, -, hws, hsize, hcount⟩ := grid_of_legal swap hw hh
  rw [hsize] at hk
  rw [← hcount] at ht
  have hx : k / 4 % (512 * cols) < 512 * cols := Nat.mod_lt _ (by omega)
  have hy : k / 4 / (512 * cols) < 512 * rows :=
    Nat.div_lt_of_lt_mul (by rw [Nat.mul_comm (512 * cols)]; omega)
  rw [hws]
  exact congrArg (placedByte order · (k % 4)) (imagePixel_congr ht hx hy)

/-- The destination bytes of a composition that passed its checks depend on the pixels of its TILE_COUNT tiles
alone (R170, R238). -/
theorem imageByte_congr_of_check {op : Op} {r : OperandRegs} (hc : checkOperands op r = none) (hop : op ≠ .decodeTile)
    {tile tile' : Nat → Nat → Pixel} (ht : SameTiles r.tileCount.toNat tile tile') (order : ChannelOrder)
    (swap : Bool) :
    ∀ k, k < (destRange op r).len →
      imageByte tile' order (widthStride r.width.toNat r.height.toNat swap) k
        = imageByte tile order (widthStride r.width.toNat r.height.toNat swap) k := by
  obtain ⟨hw, hh, hcount⟩ := checkGeometry_none (checkOperands_none hc).1 hop
  rw [hcount] at ht
  rw [destRange_of_image hop]
  exact fun k hk => imageByte_congr hw hh ht order swap hk

/-! ### The commands -/

/-- With operands that passed the checks and byte functions that agree on the output, the engine completes in both
states, with the same destination bytes and dimensions. -/
theorem State.perform_congr {op : Op} {r : OperandRegs} (hc : checkOperands op r = none) (s s' : State)
    {f f' : Nat → Byte} (hf : ∀ k, k < (destRange op r).len → f' k = f k) (w h : Word) :
    ∃ t t', s.perform op r f w h = .next t ∧ s'.perform op r f' w h = .next t' ∧
      Memory.SameInside (destRange op r) t.mem t'.mem ∧ t'.outWidth = t.outWidth ∧ t'.outHeight = t.outHeight := by
  obtain ⟨hs, hd⟩ := inSpace_of_checkOperands hc
  exact ⟨_, _, State.perform_of_inSpace f w h hs hd, State.perform_of_inSpace f' w h hs hd,
    State.complete_sameInside hf, rfl, rfl⟩

/-- Settles O37, command by command: the bytes each one writes are a function of the pixels of its tiles, and those of
the bytes of its source range. -/
theorem resultDependsOnSourceBytesOnly : Obligations.ResultDependsOnSourceBytesOnly := by
  rintro s s' ⟨⟨op, order, swap⟩, r⟩ hs hs' hc hsrc
  cases op with
  | decodeTile =>
    rw [Command.instr, execDecodeTile_busy hs, execDecodeTile_busy hs']
    exact State.perform_congr hc s s' (fun k hk => decodedTileByte_congr hsrc _ hk) 512 512
  | compose =>
    rw [Command.instr, execCompose_busy hs, execCompose_busy hs']
    exact State.perform_congr hc s s'
      (imageByte_congr_of_check hc (by simp) (storedTile_sameTiles hsrc) order swap) _ _
  | decodeCompose =>
    rw [Command.instr, execDecodeCompose_busy hs, execDecodeCompose_busy hs']
    exact State.perform_congr hc s s'
      (imageByte_congr_of_check hc (by simp) (decodedTile_sameTiles hsrc) order swap) _ _

end Sys2Proof.Machine
end

section
/-! PROOFS. A legal command word is its command's encoding (R90, R105), the step from a placed word runs that word's
instruction (R103, R106), and what reset leaves and CTRL and ID do (R22, R48, R203). -/

namespace Sys2Proof.Machine

/-! ### Command words -/

/-- A legal command word has no bit above bit 5 (R90, R93). -/
theorem toNat_lt_of_decodeCommandWord {w : Word} {c : Command} (h : decodeCommandWord w = .ok c) : w.toNat < 64 := by
  obtain ⟨-, hr, -, -⟩ := decodeCommandWord_ok h
  have hn : (reservedField c.op w).toNat = 0 := congrArg BitVec.toNat hr
  cases hop : c.op <;> simp only [hop, reservedField, BitVec.toNat_ushiftRight, Nat.shiftRight_eq_div_pow] at hn <;>
    omega

/-- Of the 64 words that are left, each legal one is its command's encoding. -/
theorem decodeCommandWord_small : ∀ x : BitVec 6,
    (decodeCommandWord (x.setWidth 32)).toOption.all
      (fun c => encodeCommandWord c == x.setWidth 32 && c.wellFormed) = true := by decide

/-- A legal command word is its command's encoding, and the command is as R208 records it. -/
theorem encodeCommandWord_of_decode {w : Word} {c : Command} (h : decodeCommandWord w = .ok c) :
    encodeCommandWord c = w ∧ c.wellFormed = true := by
  have hw : (w.setWidth 6).setWidth 32 = w := by
    have := toNat_lt_of_decodeCommandWord h
    apply BitVec.eq_of_toNat_eq
    simp only [BitVec.toNat_setWidth]
    omega
  have hs := decodeCommandWord_small (w.setWidth 6)
  rw [hw, h] at hs
  simpa [Except.toOption] using hs

/-- In IDLE a command is issued by its own word (R103). -/
theorem execCommand_idle_word {s : State} (h : s.engine = .idle) {c : Command} (hc : c.wellFormed = true) :
    exec c.instr s = exec (.wrCmd (encodeCommandWord c)) s := by
  have hcmd : ∀ v, exec (.wrCmd v) s = .next ((s.issue v).respond .done) := fun v => by
    simp [exec, execWrCmd, State.busy_of_idle h]
  rw [hcmd]
  obtain ⟨op, order, swap⟩ := c
  cases op with
  | decodeTile =>
    obtain ⟨rfl, rfl⟩ : order = .rgba ∧ swap = false := by simpa [Command.wellFormed] using hc
    simp [Command.instr, exec, execDecodeTile, h]
  | compose => simp [Command.instr, exec, execCompose, h]
  | decodeCompose => simp [Command.instr, exec, execDecodeCompose, h]

/-! ### The placed word -/

theorem decodeCommand_ok {w : Word} {i : Instr} (h : decodeCommand w = .ok i) :
    ∃ c, decodeCommandWord w = .ok c ∧ i = c.instr := by
  unfold decodeCommand at h
  split at h
  · next c hc =>
    injection h with h
    exact ⟨c, hc, h.symm⟩
  · cases h

/-- The 9-bit descriptor of a number is that of its transaction (R106; log entry 16). -/
theorem ofBool_testBit_append (w : Nat) :
    BitVec.ofBool (w.testBit 8) ++ BitVec.ofNat 8 w = BitVec.ofNat 9 w := by
  apply BitVec.eq_of_getLsbD_eq
  intro k hk
  rw [BitVec.getLsbD_append, BitVec.getLsbD_ofNat, BitVec.getLsbD_ofNat]
  rcases Nat.lt_or_ge k 8 with h | h
  · simp [h, hk]
  · obtain rfl : k = 8 := by omega
    simp

/-- A 4-byte write at 0x0C is the write to CMD (R34, R106). -/
theorem decodeTransaction_writeCmd (v : Word) :
    decodeTransaction { write := true, width := 4, offset := 0x0C, value := v } = .ok (.wrCmd v) := by
  simp [decodeTransaction, decodeBusop, Transaction.descriptor, busTable, BusRow.selects]

/-- The transaction of a table word decodes to its instruction; but a command word arrives as the value of a write to
CMD (R103, R106; log entry 16). -/
theorem decodeTransaction_tableTransaction {nbits w : Nat} {i : Instr} (h : decodeTableWord nbits w = some i) :
    decodeTransaction (tableTransaction nbits w) = .ok i ∨
    ∃ c : Command, c.wellFormed = true ∧ i = c.instr ∧
      decodeTransaction (tableTransaction nbits w) = .ok (.wrCmd (encodeCommandWord c)) := by
  have ht : decodeTable nbits w = .ok i := by
    unfold decodeTableWord at h
    cases hd : decodeTable nbits w with
    | error e => simp [hd, Except.toOption] at h
    | ok j => simpa [hd, Except.toOption] using h
  unfold decodeTable at ht
  unfold tableTransaction
  split at ht
  · next hrow =>
    split at ht
    · next hw =>
      obtain ⟨c, hc, rfl⟩ := decodeCommand_ok ht
      obtain ⟨henc, hwf⟩ := encodeCommandWord_of_decode hc
      refine .inr ⟨c, hwf, rfl, ?_⟩
      rw [if_pos hrow, if_pos hw, henc, decodeTransaction_writeCmd]
    · cases ht
  · next hrow =>
    split at ht
    · next hw =>
      left
      rw [if_neg hrow, if_pos hw, ← ht, ← ofBool_testBit_append]
      rfl
    · cases ht

theorem busTurn_outcome_of_ok {tr : Transaction} {i : Instr} (h : decodeTransaction tr = .ok i) (s : State) :
    (busTurn tr s).outcome = exec i s := by
  simp [busTurn, h, Turn.outcome]

/-- The step from a placed word is the host's turn, with its transaction (log entry 16). -/
theorem step_withFetchWord (s : State) (nbits w : Nat) :
    step (s.withFetchWord nbits w)
      = (busTurn (tableTransaction nbits w) { s with engine := .idle, faults := [] }).outcome := by
  rw [step_eq_outcome]
  rfl

/-- Settles O10: a descriptor's transaction runs its own instruction, and a command word's runs the write of that word,
which is how the command is issued in IDLE. -/
theorem placedWordRunsNext : Obligations.PlacedWordRunsNext := by
  intro s nbits w i h
  rw [step_withFetchWord]
  rcases decodeTransaction_tableTransaction h with hi | ⟨c, hc, rfl, hcmd⟩
  · exact busTurn_outcome_of_ok hi _
  · rw [busTurn_outcome_of_ok hcmd, execCommand_idle_word rfl hc]

/-! ### Reset and two registers -/

/-- A reset of the core leaves the reset values, from any state (R48, R270). -/
theorem State.coreReset_atReset (s : State) : s.coreReset.AtReset :=
  ⟨rfl, rfl, rfl, rfl, rfl, rfl, rfl, rfl, rfl, rfl⟩

/-- Settles O14, value by value. -/
theorem resetValues : Obligations.ResetValues :=
  ⟨State.reset.coreReset_atReset, rfl, rfl, rfl, rfl, rfl, rfl, rfl, rfl, rfl, rfl⟩

/-- Settles O21: both answers are exec's own. -/
theorem idNeverChanges : Obligations.IdNeverChanges := fun _ _ => ⟨rfl, .done, rfl⟩

/-- With bit 31 clear a write to CTRL is no soft reset (R203). -/
theorem execWrCtrl_of_bit31_clear (s : State) {v : Word} (h : v.getLsbD 31 = false) :
    exec (.wrCtrl v) s = .next { s with irqEn := v.getLsbD 0, resp := .done } := by
  rw [exec, execWrCtrl, h]
  rfl

/-- The reserved bits of CTRL read 0 (R26). -/
theorem ctrlWord_reserved (s : State) {k : Nat} (hk : 1 ≤ k) : s.ctrlWord.getLsbD k = false := by
  rw [State.ctrlWord, BitVec.getLsbD_setWidth, BitVec.getLsbD_of_ge _ k hk, Bool.and_false]

/-- Settles O23: with bit 31 clear the answer depends on bit 0 alone. -/
theorem ctrlWriteSetsOnlyIrqEnable : Obligations.CtrlWriteSetsOnlyIrqEnable := by
  intro s v hv
  refine ⟨⟨.done, execWrCtrl_of_bit31_clear s hv⟩, fun w hw h0 => ?_, fun k hk => ctrlWord_reserved s hk⟩
  rw [execWrCtrl_of_bit31_clear s hw, execWrCtrl_of_bit31_clear s hv, h0]

end Sys2Proof.Machine
end

section
/-! PROOFS. The rules of the whole machine: the invariant that every step keeps (R29, R33, R40, R41, R45), the recorded
model faults that no step removes (R47), what is frozen while BUSY (R40, R280), and the only ways into BUSY and out of
it (R43, R208, R209). -/

namespace Sys2Proof.Machine

/-! ### Operations that keep the invariant -/

/-- The invariant constrains neither IRQ_EN, IGNWR nor the model's own fields, and of memory and the model faults only
their form. -/
theorem State.Inv.of_same_status {s t : State} (h : s.Inv) (hm : Memory.wf t.mem) (hf : t.faults.Nodup)
    (e : t = { s with irqEn := t.irqEn, ignwr := t.ignwr, mem := t.mem, faults := t.faults, host := t.host,
                      resp := t.resp, draws := t.draws }) : t.Inv := by
  rw [e]
  exact ⟨h.busyStatus, h.noError, h.error, h.dims, h.snapshot, hm, hf⟩

theorem State.Inv.respond {s : State} (h : s.Inv) (r : HostResponse) : (s.respond r).Inv :=
  h.of_same_status h.memory h.faultSet rfl

/-- The reset values satisfy the invariant (R48). -/
theorem State.AtReset.inv {s : State} (h : s.AtReset) (hm : Memory.wf s.mem) (hf : s.faults.Nodup) : s.Inv where
  busyStatus hb := by simp [State.busy_of_idle h.engine] at hb
  noError _ := ⟨h.errcode, h.errdetail⟩
  error he := by simp [h.err] at he
  dims := .inl ⟨h.outWidth, h.outHeight⟩
  snapshot sn hs := by simp [h.engine] at hs
  memory := hm
  faultSet := hf

theorem State.AtReset.busy {s : State} (h : s.AtReset) : s.busy = false := State.busy_of_idle h.engine

theorem State.AtReset.respond {s : State} (h : s.AtReset) (r : HostResponse) : (s.respond r).AtReset :=
  ⟨h.irqEn, h.done, h.err, h.ignwr, h.errcode, h.errdetail, h.regs, h.outWidth, h.outHeight, h.engine⟩

theorem State.hardReset_atReset (s : State) : s.hardReset.AtReset := s.coreReset_atReset.respond .none

/-- The destination range of a running command lies in the address space (R68, R238). -/
theorem State.Inv.dest_le {s : State} (h : s.Inv) {sn : Snapshot} (hs : s.engine = .busy sn) :
    sn.dest.start + sn.dest.len ≤ Config.addrSpace := by
  obtain ⟨-, -, hc⟩ := h.snapshot sn hs
  exact ByteRange.inSpace_iff.mp (inSpace_of_checkOperands hc).2

theorem State.Inv.softReset {s : State} (h : s.Inv) : s.softReset.Inv := by
  obtain ⟨hreset, hfaults, -, -⟩ := s.softReset_keeps
  refine hreset.inv ?_ (hfaults ▸ h.faultSet)
  cases hs : s.engine with
  | idle =>
    rw [State.softReset_idle hs]
    exact h.memory
  | busy sn =>
    rw [State.softReset_busy hs]
    exact Memory.wf_writeRange h.memory (h.dest_le hs)

theorem State.Inv.writeStatus {s : State} (h : s.Inv) (v : Word) : (s.writeStatus v).Inv := by
  rw [State.writeStatus_eq]
  refine ⟨fun hb => ?_, fun he => ?_, fun he => ?_, h.dims, h.snapshot, h.memory, h.faultSet⟩
  · obtain ⟨hdone, herr, hdims⟩ := h.busyStatus hb
    exact ⟨by simp [hdone], by simp [herr], hdims⟩
  · cases hv : v.getLsbD 2 with
    | false =>
      simp only [hv, Bool.not_false, Bool.and_true] at he
      exact h.noError he
    | true => exact ⟨rfl, rfl⟩
  · obtain ⟨herr, hv⟩ : s.err = true ∧ v.getLsbD 2 = false := by simpa using he
    simp only [hv]
    exact h.error herr

theorem State.Inv.ignoreWrite {s : State} (h : s.Inv) : s.ignoreWrite.Inv :=
  h.of_same_status h.memory h.faultSet rfl

theorem State.Inv.writeOperand {s : State} (h : s.Inv) (put : OperandRegs → OperandRegs) :
    (s.writeOperand put).Inv := by
  cases hs : s.engine with
  | busy sn =>
    rw [State.writeOperand_busy hs]
    exact h.ignoreWrite
  | idle =>
    rw [State.writeOperand_idle hs]
    exact ⟨h.busyStatus, h.noError, h.error, h.dims, fun sn hsn => by simp [hs] at hsn, h.memory, h.faultSet⟩

theorem State.Inv.reject {s : State} (h : s.Inv) (hs : s.busy = false) (e : CoreError) : (s.reject e).Inv where
  busyStatus hb := by simp [hs] at hb
  noError he := by simp at he
  error _ := ⟨⟨e, rfl, rfl⟩, rfl, rfl⟩
  dims := .inl ⟨rfl, rfl⟩
  snapshot := h.snapshot
  memory := h.memory
  faultSet := h.faultSet

/-- Acceptance takes a snapshot of the operand registers, and of a command that has passed the check (R207, R208). -/
theorem State.Inv.accept {s : State} (h : s.Inv) {v : Word} {c : Command} (hc : check v s.regs = .ok c) :
    (s.accept c).Inv where
  busyStatus _ := ⟨rfl, rfl, rfl, rfl⟩
  noError _ := ⟨rfl, rfl⟩
  error he := by simp at he
  dims := .inl ⟨rfl, rfl⟩
  snapshot sn hsn := by
    obtain ⟨hword, hoperands⟩ := check_ok hc
    rw [State.accept_engine] at hsn
    injection hsn with hsn
    subst hsn
    exact ⟨rfl, (encodeCommandWord_of_decode hword).2, hoperands⟩
  memory := h.memory
  faultSet := h.faultSet

theorem State.Inv.issue {s : State} (h : s.Inv) (hs : s.busy = false) (v : Word) : (s.issue v).Inv := by
  rcases s.issue_cases v with ⟨e, -, heq⟩ | ⟨c, hc, heq⟩ <;> rw [heq]
  · exact h.reject hs e
  · exact h.accept hc

/-- Completion: the running command has no error to report, and its dimensions are legal (R41, R211). -/
theorem State.Inv.complete {s : State} (h : s.Inv) {sn : Snapshot} (hs : s.engine = .busy sn) (f : Nat → Byte)
    {w h' : Word} (hw : legalDim w.toNat = true) (hh : legalDim h'.toNat = true) :
    (s.complete sn.dest f w h').Inv where
  busyStatus hb := by simp at hb
  noError := h.noError
  error he := by
    obtain ⟨-, herr, -⟩ := h.busyStatus (State.busy_of_busy hs)
    simp [herr] at he
  dims := .inr ⟨hw, hh⟩
  snapshot sn' hsn' := by simp at hsn'
  memory := Memory.wf_writeRange h.memory (h.dest_le hs)
  faultSet := h.faultSet

theorem hostRead_keeps_inv {s : State} (h : s.Inv) (a : Word) : (hostRead a s).Inv := by
  rw [hostRead_eq]
  exact h.of_same_status h.memory h.faultSet rfl

theorem hostWrite_keeps_inv {s : State} (h : s.Inv) (a : Word) (v : Byte) : (hostWrite a v s).Inv := by
  have hf : (hostWrite a v s).faults.Nodup := by
    rw [hostWrite_faults]
    split
    · exact State.recordFault_nodup _ h.faultSet
    · exact h.faultSet
  rw [hostWrite_eq]
  exact h.of_same_status (Memory.wf_write h.memory a.isLt) hf rfl

/-! ### Who acts -/

/-- A command is no bus operation. -/
theorem instr_not_busop {c : Command} (hi : ∀ w, encode c.instr ≠ .command w) : False := by
  obtain ⟨op, order, swap⟩ := c
  cases op <;> exact hi _ rfl

/-- A transaction decodes to a bus operation, never to a command. -/
theorem decodeTransaction_not_command {tr : Transaction} {i : Instr} (h : decodeTransaction tr = .ok i) :
    ∀ w, encode i ≠ .command w := decodeBusop_not_command (decodeTransaction_ok h).2

/-- The engine's step is the completion of the snapshot's command (R209, R211). -/
theorem engine_completes {s t : State} {sn : Snapshot} (hs : s.engine = .busy sn)
    (h : exec sn.cmd.instr s = .next t) :
    ∃ f w h', t = s.complete sn.dest f w h' ∧
      (checkOperands sn.cmd.op sn.regs = none → legalDim w.toNat = true ∧ legalDim h'.toNat = true) := by
  rcases execCommand_cases h with ⟨v, hidle, -⟩ | ⟨sn', f, w, h', hsn, ht, -, hdims⟩
  · simp [hs] at hidle
  · obtain rfl : sn = sn' := by simpa [hs] using hsn
    exact ⟨f, w, h', ht, hdims⟩

/-! ### Every step keeps the invariant -/

theorem engine_keeps_inv {s t : State} {sn : Snapshot} (h : s.Inv) (hs : s.engine = .busy sn)
    (hx : exec sn.cmd.instr s = .next t) : t.Inv := by
  obtain ⟨f, w, h', rfl, hdims⟩ := engine_completes hs hx
  obtain ⟨-, -, hc⟩ := h.snapshot sn hs
  exact h.complete hs f (hdims hc).1 (hdims hc).2

theorem busop_keeps_inv {s t : State} {i : Instr} (h : s.Inv) (hi : ∀ w, encode i ≠ .command w)
    (hx : exec i s = .next t) : t.Inv := by
  rcases exec_cases hx with ⟨c, rfl⟩ | ⟨v, -, rfl⟩ | ⟨v, -, rfl⟩ | ⟨v, -, rfl⟩ | ⟨put, rfl⟩ | ⟨r, rfl⟩
  · exact (instr_not_busop hi).elim
  · split
    · exact h.softReset.respond _
    · exact h.of_same_status h.memory h.faultSet rfl
  · exact (h.writeStatus v).respond _
  · split
    · exact h.ignoreWrite.respond _
    · next hb => exact (h.issue (by simpa using hb) v).respond _
  · exact (h.writeOperand put).respond _
  · exact h.respond r

theorem hostTurn_keeps_inv {s t : State} {a : HostAction} (h : s.Inv) (ht : (hostTurn a s).outcome = .next t) :
    t.Inv := by
  rcases hostTurn_outcome ht with ⟨tr, i, -, hi, hx⟩ | ⟨r, rfl⟩ | ⟨addr, -, rfl⟩ | ⟨addr, v, -, rfl⟩ | ⟨-, rfl⟩
  · exact busop_keeps_inv h (decodeTransaction_not_command hi) hx
  · exact h.respond r
  · exact hostRead_keeps_inv h addr
  · exact hostWrite_keeps_inv h addr v
  · exact s.hardReset_atReset.inv h.memory h.faultSet

/-- Settles O52, by who acts: the core waits, the engine completes, or the host acts. -/
theorem stepKeepsInvariant : Obligations.StepKeepsInvariant := by
  intro s t h ht
  obtain ⟨-, ⟨-, -, rfl⟩ | ⟨sn, d, hs, hx⟩ | ⟨a, rest, d, -, hx⟩⟩ := step_cases ht
  · exact h
  · exact engine_keeps_inv (s := { s with draws := d }) (h.of_same_status h.memory h.faultSet rfl) hs hx
  · exact hostTurn_keeps_inv (s := { s with host := rest, draws := d }) (h.of_same_status h.memory h.faultSet rfl) hx

/-- Settles O15: the reset state holds the reset values, with nothing in memory and no model fault. -/
theorem resetSatisfiesInvariant : Obligations.ResetSatisfiesInvariant :=
  State.reset.coreReset_atReset.inv Memory.wf_nil List.nodup_nil

/-! ### Model faults -/

@[simp] theorem State.softReset_faults (s : State) : s.softReset.faults = s.faults := by
  obtain ⟨-, hfaults, -⟩ := s.softReset_keeps
  exact hfaults

@[simp] theorem State.writeStatus_faults (s : State) (v : Word) : (s.writeStatus v).faults = s.faults := by
  rw [State.writeStatus_eq]

@[simp] theorem State.writeOperand_faults (s : State) (put : OperandRegs → OperandRegs) :
    (s.writeOperand put).faults = s.faults := by
  cases hs : s.engine with
  | idle => rw [State.writeOperand_idle hs]
  | busy sn => rw [State.writeOperand_busy hs]; rfl

@[simp] theorem State.issue_faults (s : State) (v : Word) : (s.issue v).faults = s.faults := by
  rcases s.issue_cases v with ⟨e, -, heq⟩ | ⟨c, -, heq⟩ <;> rw [heq] <;> rfl

/-- No instruction records a model fault or removes one (R47, R78). -/
theorem exec_faults {s t : State} {i : Instr} (h : exec i s = .next t) : t.faults = s.faults := by
  rcases exec_cases h with ⟨c, rfl⟩ | ⟨v, -, rfl⟩ | ⟨v, -, rfl⟩ | ⟨v, -, rfl⟩ | ⟨put, rfl⟩ | ⟨r, rfl⟩
  · rcases execCommand_cases h with ⟨v, -, rfl⟩ | ⟨sn, f, w, h', -, rfl, -⟩ <;> simp
  · split <;> simp
  · simp
  · split <;> simp [State.ignoreWrite]
  · simp
  · simp

theorem hostTurn_keeps_fault {s t : State} {a : HostAction} {f : ModelFault}
    (ht : (hostTurn a s).outcome = .next t) (hf : f ∈ s.faults) : f ∈ t.faults := by
  rcases hostTurn_outcome ht with ⟨tr, i, -, -, hx⟩ | ⟨r, rfl⟩ | ⟨addr, -, rfl⟩ | ⟨addr, v, -, rfl⟩ | ⟨-, rfl⟩
  · rw [exec_faults hx]
    exact hf
  · exact hf
  · rw [hostRead_eq]
    exact hf
  · rw [hostWrite_faults]
    split
    · exact s.recordFault_keeps _ f hf
    · exact hf
  · exact hf

/-- Settles O51: no instruction touches the model faults, the host's actions only add to them, and with one recorded no
step answers a next state. -/
theorem modelFaultsPersist : Obligations.ModelFaultsPersist := by
  rintro s t i a f hf (hx | ha | hstep)
  · rw [exec_faults hx]
    exact hf
  · exact hostTurn_keeps_fault ha hf
  · obtain ⟨hnone, -⟩ := step_cases hstep
    simp [hnone] at hf

/-! ### The phase -/

/-- What is frozen while BUSY: the phase with its snapshot, the operand registers and the output dimensions (R40,
R280). -/
def State.SameFrozen (s t : State) : Prop :=
  t.engine = s.engine ∧ t.regs = s.regs ∧ t.outWidth = s.outWidth ∧ t.outHeight = s.outHeight

theorem State.SameFrozen.busy {s t : State} (h : s.SameFrozen t) : t.busy = s.busy := by
  rw [State.busy_eq, State.busy_eq, h.1]

/-- In BUSY a bus operation changes nothing that is frozen, or it is a soft reset. -/
theorem busop_while_busy {s t : State} {i : Instr} (hs : s.busy = true) (hi : ∀ w, encode i ≠ .command w)
    (hx : exec i s = .next t) :
    (∃ v, i = .wrCtrl v ∧ v.getLsbD 31 = true ∧ t.AtReset) ∨ s.SameFrozen t := by
  obtain ⟨sn, hsn⟩ := State.exists_snapshot hs
  rcases exec_cases hx with ⟨c, rfl⟩ | ⟨v, rfl, rfl⟩ | ⟨v, -, rfl⟩ | ⟨v, -, rfl⟩ | ⟨put, rfl⟩ | ⟨r, rfl⟩
  · exact (instr_not_busop hi).elim
  · split
    · next hv => exact .inl ⟨v, rfl, hv, s.softReset_keeps.1.respond _⟩
    · exact .inr ⟨rfl, rfl, rfl, rfl⟩
  · rw [State.writeStatus_eq]
    exact .inr ⟨rfl, rfl, rfl, rfl⟩
  · rw [if_pos hs]
    exact .inr ⟨rfl, rfl, rfl, rfl⟩
  · rw [State.writeOperand_busy hsn]
    exact .inr ⟨rfl, rfl, rfl, rfl⟩
  · exact .inr ⟨rfl, rfl, rfl, rfl⟩

/-- In BUSY the host's action changes nothing that is frozen, or it is one of the two resets. -/
theorem hostTurn_while_busy {s t : State} {a : HostAction} (hs : s.busy = true)
    (ht : (hostTurn a s).outcome = .next t) :
    (t.AtReset ∧ (a = .hardReset ∨ ∃ tr v, a.transaction = some tr ∧ decodeTransaction tr = .ok (.wrCtrl v) ∧
      v.getLsbD 31 = true)) ∨ s.SameFrozen t := by
  rcases hostTurn_outcome ht with ⟨tr, i, htr, hi, hx⟩ | ⟨r, rfl⟩ | ⟨addr, -, rfl⟩ | ⟨addr, v, -, rfl⟩ | ⟨ha, rfl⟩
  · rcases busop_while_busy hs (decodeTransaction_not_command hi) hx with ⟨v, rfl, hv, hreset⟩ | hsame
    · exact .inl ⟨hreset, .inr ⟨tr, v, htr, hi, hv⟩⟩
    · exact .inr hsame
  · exact .inr ⟨rfl, rfl, rfl, rfl⟩
  · rw [hostRead_eq]
    exact .inr ⟨rfl, rfl, rfl, rfl⟩
  · rw [hostWrite_eq]
    exact .inr ⟨rfl, rfl, rfl, rfl⟩
  · exact .inl ⟨s.hardReset_atReset, .inl ha⟩

/-- In IDLE a bus operation leaves the engine idle, or it is a CMD write that passes the check (R206, R208). -/
theorem busop_while_idle {s t : State} {i : Instr} (hs : s.engine = .idle) (hi : ∀ w, encode i ≠ .command w)
    (hx : exec i s = .next t) :
    (∃ v c, i = .wrCmd v ∧ check v s.regs = .ok c ∧ t.snapshot = some ⟨c, s.regs⟩) ∨ t.engine = .idle := by
  rcases exec_cases hx with ⟨c, rfl⟩ | ⟨v, -, rfl⟩ | ⟨v, -, rfl⟩ | ⟨v, rfl, rfl⟩ | ⟨put, rfl⟩ | ⟨r, rfl⟩
  · exact (instr_not_busop hi).elim
  · right
    split
    · exact s.softReset_engine
    · exact hs
  · rw [State.writeStatus_eq]
    exact .inr hs
  · rw [if_neg (by simp [State.busy_of_idle hs])]
    rcases s.issue_cases v with ⟨e, -, heq⟩ | ⟨c, hc, heq⟩ <;> rw [heq]
    · exact .inr hs
    · exact .inl ⟨v, c, rfl, hc, rfl⟩
  · rw [State.writeOperand_idle hs]
    exact .inr hs
  · exact .inr hs

/-- In IDLE the host's action leaves the engine idle, or it is a CMD write that passes the check. -/
theorem hostTurn_while_idle {s t : State} {a : HostAction} (hs : s.engine = .idle)
    (ht : (hostTurn a s).outcome = .next t) :
    (∃ tr v c, a.transaction = some tr ∧ decodeTransaction tr = .ok (.wrCmd v) ∧ check v s.regs = .ok c ∧
      t.snapshot = some ⟨c, s.regs⟩) ∨ t.engine = .idle := by
  rcases hostTurn_outcome ht with ⟨tr, i, htr, hi, hx⟩ | ⟨r, rfl⟩ | ⟨addr, -, rfl⟩ | ⟨addr, v, -, rfl⟩ | ⟨-, rfl⟩
  · rcases busop_while_idle hs (decodeTransaction_not_command hi) hx with ⟨v, c, rfl, hc, hsn⟩ | hidle
    · exact .inl ⟨tr, v, c, htr, hi, hc, hsn⟩
    · exact .inr hidle
  · exact .inr hs
  · rw [hostRead_eq]
    exact .inr hs
  · rw [hostWrite_eq]
    exact .inr hs
  · exact .inr rfl

/-- In BUSY a step is the completion of the snapshot's command or an action of the host. -/
theorem step_while_busy {s t : State} (hs : s.busy = true) (h : step s = .next t) :
    (∃ sn d, s.engine = .busy sn ∧ exec sn.cmd.instr { s with draws := d } = .next t ∧ t.done = true ∧
      t.busy = false) ∨
    (∃ a rest d, s.host = a :: rest ∧ (hostTurn a { s with host := rest, draws := d }).outcome = .next t) := by
  obtain ⟨-, ⟨hidle, -⟩ | ⟨sn, d, hsn, hx⟩ | hhost⟩ := step_cases h
  · simp [State.busy_of_idle hidle] at hs
  · obtain ⟨f, w, h', heq, -⟩ := engine_completes (s := { s with draws := d }) hsn hx
    exact .inl ⟨sn, d, hsn, hx, by rw [heq, State.complete_done], by rw [heq, State.complete_busy]⟩
  · exact .inr hhost

/-- From BUSY to BUSY the host's action keeps what is frozen: the resets end BUSY. -/
theorem hostTurn_sameFrozen {s t : State} {a : HostAction} (hx : (hostTurn a s).outcome = .next t)
    (hs : s.busy = true) (ht : t.busy = true) : s.SameFrozen t := by
  rcases hostTurn_while_busy hs hx with ⟨hreset, -⟩ | hsame
  · simp [hreset.busy] at ht
  · exact hsame

/-- Settles O54: a completion ends BUSY, and the host's action keeps what is frozen. -/
theorem frozenWhileBusy : Obligations.FrozenWhileBusy := by
  intro s t a h hs ht
  rcases h with hx | hstep
  · exact hostTurn_sameFrozen hx hs ht
  · rcases step_while_busy hs hstep with ⟨sn, d, -, -, -, hidle⟩ | ⟨b, rest, d, -, hx⟩
    · simp [hidle] at ht
    · exact hostTurn_sameFrozen (s := { s with host := rest, draws := d }) hx hs ht

/-- Settles O55: entering BUSY is the host's accepted CMD write; leaving it is the completion or one of the two
resets. -/
theorem phaseChangesOnlyAsStated : Obligations.PhaseChangesOnlyAsStated := by
  intro s t h
  refine ⟨fun hs ht => ?_, fun hs ht => ?_⟩
  · have hidle := State.idle_of_not_busy hs
    obtain ⟨-, ⟨-, -, rfl⟩ | ⟨sn, d, hsn, -⟩ | ⟨a, rest, d, ha, hx⟩⟩ := step_cases h
    · simp [hs] at ht
    · simp [hidle] at hsn
    · rcases hostTurn_while_idle (s := { s with host := rest, draws := d }) hidle hx
        with ⟨tr, v, c, htr, hcmd, hc, hsnap⟩ | hend
      · exact ⟨a, rest, tr, v, c, ha, htr, hcmd, hc, hsnap⟩
      · simp [State.busy_of_idle hend] at ht
  · rcases step_while_busy hs h with ⟨sn, d, hsn, hx, hdone, -⟩ | ⟨a, rest, d, ha, hx⟩
    · exact .inl ⟨sn, d, hsn, hx, hdone⟩
    · rcases hostTurn_while_busy (s := { s with host := rest, draws := d }) hs hx
        with ⟨hreset, hcause⟩ | hsame
      · exact .inr ⟨a, rest, ha, hreset, hcause⟩
      · have hbusy : t.busy = true := hsame.busy.trans hs
        simp [hbusy] at ht

end Sys2Proof.Machine
end

section
/-! PROOFS. System memory: the fields of a compressed block from its bytes (R62, R94, R101), the host's own accesses
(R77, R78, R213), who changes a byte of memory (R61, R213, R273), and what a command leaves unchanged (R211, R236); and
the register window on the host bus (R71, R251). -/

namespace Sys2Proof.Machine

/-! ### The fields of a block -/

/-- A number with its lowest byte split off. -/
theorem ofNat_mul_256_add_byte (w x : Nat) (b : Byte) :
    BitVec.ofNat (w + 8) (x * 256 + b.toNat) = BitVec.ofNat w x ++ b := by
  have hb : b.toNat < 256 := b.isLt
  apply BitVec.eq_of_toNat_eq
  rw [BitVec.toNat_append, ← Nat.shiftLeft_add_eq_or_of_lt b.isLt, Nat.shiftLeft_eq, BitVec.toNat_ofNat,
    BitVec.toNat_ofNat, Nat.pow_add, Nat.mul_comm (2 ^ w), Nat.mod_mul]
  have hdiv : (x * 256 + b.toNat) / 2 ^ 8 = x := by omega
  rw [hdiv]
  omega

theorem memRead_one (order : ByteOrder) (m : Memory) (a : Nat) : memRead order m a 1 = (Memory.read m a).toNat := by
  cases order <;> simp [memRead]

/-- Little-endian: the byte at the lowest address is the least significant one (R62). -/
theorem memRead_little_succ (m : Memory) (a n : Nat) :
    memRead .little m a (n + 1) = memRead .little m (a + 1) n * 256 + (Memory.read m a).toNat := by
  simp only [memRead, List.range_succ_eq_map, List.map_cons, List.map_map, List.sum_cons]
  rw [Nat.add_comm, ← List.sum_map_mul_right]
  congr 3
  · funext i
    simp only [Function.comp, Nat.shiftLeft_eq, Nat.succ_eq_add_one, Nat.mul_add, Nat.pow_add]
    rw [Nat.add_right_comm, Nat.add_assoc, Nat.mul_assoc]

/-- Big-endian: the byte at the highest address is the least significant one (R62). -/
theorem memRead_big_succ (m : Memory) (a n : Nat) :
    memRead .big m a (n + 1) = memRead .big m a n * 256 + (Memory.read m (a + n)).toNat := by
  have hshift : ∀ i ∈ List.range n, (Memory.read m (a + i)).toNat <<< (8 * (n + 1 - 1 - i))
      = (Memory.read m (a + i)).toNat <<< (8 * (n - 1 - i)) * 256 := fun i hi => by
    have hi : i < n := List.mem_range.mp hi
    have hexp : 8 * (n + 1 - 1 - i) = 8 * (n - 1 - i) + 8 := by omega
    rw [hexp, Nat.shiftLeft_add, Nat.shiftLeft_eq _ 8]
  simp only [memRead, List.range_succ, List.map_append, List.sum_append, List.map_congr_left hshift,
    List.sum_map_mul_right]
  simp

/-- A field of two bytes (R62, R94). -/
theorem ofNat_memRead_two (m : Memory) (a : Nat) :
    BitVec.ofNat 16 (memRead .little m a 2) = Memory.read m (a + 1) ++ Memory.read m a ∧
    BitVec.ofNat 16 (memRead .big m a 2) = Memory.read m a ++ Memory.read m (a + 1) := by
  rw [memRead_little_succ, memRead_big_succ, memRead_one, memRead_one]
  constructor <;>
    rw [ofNat_mul_256_add_byte 8, BitVec.ofNat_toNat, BitVec.setWidth_eq]

/-- A field of four bytes (R62, R94). -/
theorem ofNat_memRead_four (m : Memory) (a : Nat) :
    BitVec.ofNat 32 (memRead .little m a 4)
      = Memory.read m (a + 3) ++ Memory.read m (a + 2) ++ Memory.read m (a + 1) ++ Memory.read m a ∧
    BitVec.ofNat 32 (memRead .big m a 4)
      = Memory.read m a ++ Memory.read m (a + 1) ++ Memory.read m (a + 2) ++ Memory.read m (a + 3) := by
  rw [memRead_little_succ, memRead_little_succ, memRead_big_succ, memRead_big_succ]
  obtain ⟨hlittle, -⟩ := ofNat_memRead_two m (a + 1 + 1)
  obtain ⟨-, hbig⟩ := ofNat_memRead_two m a
  constructor
  · rw [ofNat_mul_256_add_byte 24, ofNat_mul_256_add_byte 16, hlittle]
  · rw [ofNat_mul_256_add_byte 24, ofNat_mul_256_add_byte 16, hbig]

/-- Settles O44, field by field. -/
theorem blockFieldsFromBytes : Obligations.BlockFieldsFromBytes := by
  intro m a
  obtain ⟨hlittle0, hbig0⟩ := ofNat_memRead_two m a
  obtain ⟨hlittle1, hbig1⟩ := ofNat_memRead_two m (a + 2)
  obtain ⟨hlittleCodes, hbigCodes⟩ := ofNat_memRead_four m (a + 4)
  exact ⟨hlittle0, hlittle1, hlittleCodes, hbig0, hbig1, hbigCodes⟩

/-! ### The host's accesses to memory -/

/-- A byte outside the destination range of every running command (R77). -/
theorem State.inRunningDest_eq_false_iff {s : State} {a : Nat} :
    s.inRunningDest a = false ↔ ∀ sn, s.engine = .busy sn → sn.dest.contains a = false := by
  unfold State.inRunningDest
  cases s.engine <;> simp

/-- A byte in a range of the running command (R78). -/
theorem State.inRunningRanges_iff {s : State} {a : Nat} :
    s.inRunningRanges a = true ↔
      ∃ sn, s.engine = .busy sn ∧ (sn.source.contains a = true ∨ sn.dest.contains a = true) := by
  unfold State.inRunningRanges
  cases s.engine <;> simp

/-- A host read outside a running command's destination range answers memory's byte (R213). -/
theorem hostRead_of_not_inRunningDest {s : State} {a : Word} (h : s.inRunningDest a.toNat = false) :
    hostRead a s = { s with resp := .byte (Memory.read s.mem a.toNat) } := by
  simp [hostRead, h]

/-- Settles O48: a read changes the response and the draw count only, and only a destination byte takes a draw. -/
theorem hostMemoryReads : Obligations.HostMemoryReads := by
  intro s a
  refine ⟨⟨hostRead a s, rfl, hostRead_eq a s⟩, fun hout => ?_⟩
  rw [hostTurn, Turn.outcome, hostRead_of_not_inRunningDest (State.inRunningDest_eq_false_iff.mpr hout)]

/-- Memory after a host write (R213). -/
theorem hostWrite_read (a : Word) (v : Byte) (s : State) (b : Nat) :
    Memory.read (hostWrite a v s).mem b = if b = a.toNat then v else Memory.read s.mem b := by
  rw [hostWrite_eq, Memory.read_write]

/-- Settles O49: the race is recorded exactly for a byte in a running range. -/
theorem hostMemoryWrites : Obligations.HostMemoryWrites := by
  intro s a v
  refine ⟨hostWrite a v s, rfl, ?_, fun b hb => ?_, ?_, fun hin => ?_, fun hout => ?_⟩
  · rw [hostWrite_read, if_pos rfl]
  · rw [hostWrite_read, if_neg hb]
  · rw [hostWrite_eq]
  · rw [hostWrite_faults, if_pos (State.inRunningRanges_iff.mpr hin)]
    exact s.mem_recordFault .hostRace
  · rw [hostWrite_faults, if_neg]
    rw [State.inRunningRanges_iff]
    rintro ⟨sn, hsn, hrange⟩
    simp [hout sn hsn] at hrange

/-- Settles O50: a recorded fault is at the head of the list that the turn looks at first. -/
theorem raceEndsTheRun : Obligations.RaceEndsTheRun := by
  intro s h
  obtain ⟨f, fs, hs⟩ := List.exists_cons_of_ne_nil h
  exact step_of_fault hs

/-! ### Who changes memory -/

/-- The decision at a CMD write reads and writes no byte of memory (R236, R208). -/
@[simp] theorem State.issue_mem (s : State) (v : Word) : (s.issue v).mem = s.mem := by
  rcases s.issue_cases v with ⟨e, -, heq⟩ | ⟨c, -, heq⟩ <;> rw [heq] <;> rfl

@[simp] theorem State.writeOperand_mem (s : State) (put : OperandRegs → OperandRegs) :
    (s.writeOperand put).mem = s.mem := by
  cases hs : s.engine with
  | idle => rw [State.writeOperand_idle hs]
  | busy sn => rw [State.writeOperand_busy hs]; rfl

/-- A soft reset changes memory in the destination range of the running command only (R272, R273). -/
theorem State.softReset_mem (s : State) :
    s.softReset.mem = s.mem ∨ ∃ sn, s.engine = .busy sn ∧ Memory.SameOutside sn.dest s.mem s.softReset.mem := by
  cases hs : s.engine with
  | idle =>
    rw [State.softReset_idle hs]
    exact .inl rfl
  | busy sn =>
    rw [State.softReset_busy hs]
    exact .inr ⟨sn, rfl, fun a ha => Memory.read_writeRange_outside ha⟩

/-- A bus operation changes memory by a soft reset only (R201 to R206, R273). -/
theorem busop_mem {s t : State} {i : Instr} (hi : ∀ w, encode i ≠ .command w) (hx : exec i s = .next t) :
    t.mem = s.mem ∨ ∃ sn, s.engine = .busy sn ∧ Memory.SameOutside sn.dest s.mem t.mem := by
  rcases exec_cases hx with ⟨c, rfl⟩ | ⟨v, -, rfl⟩ | ⟨v, -, rfl⟩ | ⟨v, -, rfl⟩ | ⟨put, rfl⟩ | ⟨r, rfl⟩
  · exact (instr_not_busop hi).elim
  · split
    · exact s.softReset_mem
    · exact .inl rfl
  · rw [State.writeStatus_eq]
    exact .inl rfl
  · left
    split
    · rfl
    · exact s.issue_mem v
  · exact .inl (s.writeOperand_mem put)
  · exact .inl rfl

/-- The host's action changes memory by a write of its own or by a soft reset only (R213, R270, R273). -/
theorem hostTurn_mem {s t : State} {a : HostAction} (ht : (hostTurn a s).outcome = .next t) :
    (∃ addr v, a = .memWrite addr v ∧ t.mem = Memory.write s.mem addr.toNat v) ∨ t.mem = s.mem ∨
      ∃ sn, s.engine = .busy sn ∧ Memory.SameOutside sn.dest s.mem t.mem := by
  rcases hostTurn_outcome ht with ⟨tr, i, -, hi, hx⟩ | ⟨r, rfl⟩ | ⟨addr, -, rfl⟩ | ⟨addr, v, rfl, rfl⟩ | ⟨-, rfl⟩
  · exact .inr (busop_mem (decodeTransaction_not_command hi) hx)
  · exact .inr (.inl rfl)
  · rw [hostRead_eq]
    exact .inr (.inl rfl)
  · rw [hostWrite_eq]
    exact .inl ⟨addr, v, rfl, rfl⟩
  · exact .inr (.inl rfl)

/-- A byte that differs lies in the range outside of which the memories agree. -/
theorem Memory.SameOutside.contains_of_ne {r : ByteRange} {m m' : Memory} (h : Memory.SameOutside r m m') {a : Nat}
    (hne : Memory.read m' a ≠ Memory.read m a) : r.contains a = true := by
  by_contra hout
  exact hne (h a (by simpa using hout))

/-- Settles O53, by who acts: waiting changes nothing, the engine's completion writes its destination, and the host
writes its own byte or resets. -/
theorem memoryChangesOnlyInTheDestination : Obligations.MemoryChangesOnlyInTheDestination := by
  intro s t a h hne
  obtain ⟨-, ⟨-, -, rfl⟩ | ⟨sn, d, hsn, hx⟩ | ⟨act, rest, d, hhost, hx⟩⟩ := step_cases h
  · exact absurd rfl hne
  · obtain ⟨f, w, h', rfl, -⟩ := engine_completes (s := { s with draws := d }) hsn hx
    exact .inr ⟨sn, hsn, (State.complete_sameOutside _ _ f w h').contains_of_ne hne⟩
  · rcases hostTurn_mem hx with ⟨addr, v, rfl, hm⟩ | hm | ⟨sn, hsn, hsame⟩
    · refine .inl ⟨addr, v, rest, hhost, ?_⟩
      by_contra haddr
      exact hne (by rw [hm, Memory.read_write, if_neg (Ne.symm haddr)])
    · exact absurd (by rw [hm]) hne
    · exact .inr ⟨sn, hsn, hsame.contains_of_ne hne⟩

/-! ### The frame of the commands -/

/-- The decision at a CMD write touches the flags of R214 and the phase only (R208, R236). -/
theorem State.issue_sameSurroundings (s : State) (v : Word) (r : HostResponse) :
    s.SameSurroundings ((s.issue v).respond r) := by
  rcases s.issue_cases v with ⟨e, -, heq⟩ | ⟨c, -, heq⟩ <;> rw [heq] <;> exact ⟨rfl, rfl, rfl, rfl, rfl, rfl⟩

theorem State.complete_sameSurroundings (s : State) (d : ByteRange) (f : Nat → Byte) (w h : Word) :
    s.SameSurroundings (s.complete d f w h) := ⟨rfl, rfl, rfl, rfl, rfl, rfl⟩

/-- What a command leaves unchanged, issued in IDLE or completing in BUSY (R211, R236). -/
theorem execCommand_frame {s t : State} {c : Command} (h : exec c.instr s = .next t) :
    s.SameSurroundings t ∧
    (s.engine = .idle → Memory.Same s.mem t.mem) ∧
    (∀ sn, s.engine = .busy sn →
      Memory.SameOutside (destRange c.op sn.regs) s.mem t.mem ∧ t.err = s.err ∧ t.errcode = s.errcode ∧
        t.errdetail = s.errdetail ∧ t.resp = s.resp) := by
  rcases execCommand_cases h with ⟨v, hidle, rfl⟩ | ⟨sn, f, w, h', hsn, rfl, -, -⟩
  · refine ⟨s.issue_sameSurroundings v .done, fun _ a => ?_, fun sn hsn => ?_⟩
    · rw [State.respond_mem, State.issue_mem]
    · simp [hidle] at hsn
  · refine ⟨s.complete_sameSurroundings _ f w h', fun hidle => ?_, fun sn' hsn' => ?_⟩
    · simp [hsn] at hidle
    · obtain rfl : sn = sn' := by simpa [hsn] using hsn'
      exact ⟨s.complete_sameOutside _ f w h', rfl, rfl, rfl, rfl⟩

/-- Settles O58, command by command. -/
theorem commandFrame : Obligations.CommandFrame := by
  rintro s t i op order swap (⟨rfl, rfl⟩ | ⟨rfl, rfl⟩ | ⟨rfl, rfl⟩) h
  · exact execCommand_frame (c := ⟨.decodeTile, .rgba, false⟩) h
  · exact execCommand_frame (c := ⟨.compose, order, swap⟩) h
  · exact execCommand_frame (c := ⟨.decodeCompose, order, swap⟩) h

/-! ### The register window -/

/-- Settles O12: in the window the access makes the transaction at its offset, and elsewhere none. -/
theorem windowStandsAtRegBase : Obligations.WindowStandsAtRegBase := by
  intro s b
  refine ⟨fun o ho => ?_, fun hout => ⟨.none, ?_⟩⟩
  · simp only [hostTurn, BusAccess.transaction_in ho]
  · simp only [hostTurn, BusAccess.transaction_out hout]
    rfl

end Sys2Proof.Machine
end

section
/-! PROOFS. The encodings (R90 to R93, R105, R106, R200): decoding inverts encoding on every well-formed instruction, the
legal command words are the nine of R105, and a transaction selects an operation exactly where it is 4 bytes wide and
aligned. With them the errors of an illegal word (R231), the host's turn in IDLE (R103) and an expanded colour (R122). -/

namespace Sys2Proof.Machine

/-! ### Command words -/

/-- The nine commands of R105, in its order. -/
def legalCommands : List Command :=
  [⟨.decodeTile, .rgba, false⟩, ⟨.compose, .rgba, false⟩, ⟨.compose, .bgra, false⟩, ⟨.compose, .rgba, true⟩,
    ⟨.compose, .bgra, true⟩, ⟨.decodeCompose, .rgba, false⟩, ⟨.decodeCompose, .bgra, false⟩,
    ⟨.decodeCompose, .rgba, true⟩, ⟨.decodeCompose, .bgra, true⟩]

/-- A command as R208 records it is one of the nine. -/
theorem mem_legalCommands {c : Command} (hc : c.wellFormed = true) : c ∈ legalCommands := by
  obtain ⟨op, order, swap⟩ := c
  cases op with
  | decodeTile =>
    obtain ⟨rfl, rfl⟩ : order = .rgba ∧ swap = false := by simpa [Command.wellFormed] using hc
    decide
  | compose => cases order <;> cases swap <;> decide
  | decodeCompose => cases order <;> cases swap <;> decide

theorem decodeCommandWord_encodeCommandWord {c : Command} (hc : c.wellFormed = true) :
    decodeCommandWord (encodeCommandWord c) = .ok c := by
  have h : ∀ c ∈ legalCommands, decodeCommandWord (encodeCommandWord c) = .ok c := by decide
  exact h c (mem_legalCommands hc)

/-- A well-formed command is read back from its encoding. -/
theorem decode_encode_command {c : Command} (hc : c.wellFormed = true) :
    decode (.command (encodeCommandWord c)) = .ok c.instr := by
  simp only [decode, decodeCommand, decodeCommandWord_encodeCommandWord hc]

/-! ### The rows of the BUSOP table -/

/-- Two rows whose patterns differ in a bit that both masks have share no descriptor. -/
theorem selects_disjoint {a b : BusRow} (h : a.pattern &&& b.mask ≠ b.pattern &&& a.mask) (d : BitVec 9) :
    ¬ (a.selects d = true ∧ b.selects d = true) := by
  simp only [BusRow.selects, beq_iff_eq]
  rintro ⟨ha, hb⟩
  rw [← ha, ← hb, BitVec.and_assoc, BitVec.and_assoc, BitVec.and_comm a.mask] at h
  exact h rfl

/-- Settles O5: any two rows differ in a bit that both masks have. -/
theorem busRowsAreDisjoint : Obligations.BusRowsAreDisjoint := by
  have h : busTable.Pairwise fun a b => a.pattern &&& b.mask ≠ b.pattern &&& a.mask := by decide
  exact h.imp selects_disjoint

/-- The rows being disjoint, a descriptor decodes by the row it selects, whichever place that has in the table. -/
theorem decodeBusop_of_selects {r : BusRow} (hr : r ∈ busTable) {d : BitVec 9} (hs : r.selects d = true) (v : Word) :
    decodeBusop d v = .ok (r.make (d.extractLsb' 0 8) v) := by
  have hfind : busTable.find? (·.selects d) = some r := by
    cases hf : busTable.find? (·.selects d) with
    | none => exact absurd hs (List.find?_eq_none.mp hf r hr)
    | some r' =>
      have hs' : r'.selects d = true := List.find?_some (p := fun x : BusRow => x.selects d) hf
      have : Std.Symm fun a b : BusRow => ∀ d, ¬ (a.selects d = true ∧ b.selects d = true) :=
        ⟨fun _ _ h d => fun ⟨h1, h2⟩ => h d ⟨h2, h1⟩⟩
      by_contra hne
      exact busRowsAreDisjoint.forall (List.mem_of_find?_eq_some hf) hr (fun e => hne (congrArg some e)) d ⟨hs', hs⟩
  rw [decodeBusop, hfind]

/-- Every row asks for an aligned offset (R106, R200). -/
theorem aligned_of_selects {r : BusRow} (hr : r ∈ busTable) {w : Bool} {o : BitVec 8}
    (hs : r.selects (BitVec.ofBool w ++ o) = true) : aligned o = true := by
  have hlow : ∀ r ∈ busTable, r.mask &&& 3 = 3 ∧ r.pattern &&& 3 = 0 := by decide
  have hoff : ∀ (w : Bool) (o : BitVec 8), (BitVec.ofBool w ++ o) &&& 3 = 0 → aligned o = true := by decide
  obtain ⟨hm, hp⟩ := hlow r hr
  simp only [BusRow.selects, beq_iff_eq] at hs
  apply hoff w
  rw [← hm, ← BitVec.and_assoc, hs, hp]

/-- Every aligned offset has a row, for a read and for a write (R106). -/
theorem exists_selects_of_aligned : ∀ (w : Bool) (o : BitVec 8), aligned o = true →
    ∃ r ∈ busTable, r.selects (BitVec.ofBool w ++ o) = true := by decide

/-- The three rows of WR.RESERVED cover the reserved offsets (R42, R106). -/
theorem exists_reservedRow {o : BitVec 8} (ho : reservedOffset o = true) :
    ∃ r ∈ busTable, r.selects (1#1 ++ o) = true ∧ r.make = fun o v => .wrReserved o v := by
  have hrow : ∀ o : BitVec 8, reservedOffset o = true →
      busTable[15].selects (1#1 ++ o) = true ∨ busTable[16].selects (1#1 ++ o) = true ∨
        busTable[17].selects (1#1 ++ o) = true := by decide
  rcases hrow o ho with h | h | h
  · exact ⟨_, List.getElem_mem _, h, rfl⟩
  · exact ⟨_, List.getElem_mem _, h, rfl⟩
  · exact ⟨_, List.getElem_mem _, h, rfl⟩

/-! ### Decoding inverts encoding -/

theorem decode_encode_rd {o : BitVec 8} (ho : aligned o = true) : decode (encode (.rd o)) = .ok (.rd o) := by
  have hrow : ∀ o : BitVec 8, aligned o = true → busTable[0].selects (0#1 ++ o) = true := by decide
  have h := decodeBusop_of_selects (List.getElem_mem _) (hrow o ho) 0
  rwa [BitVec.extractLsb'_append_eq_right] at h

theorem decode_encode_wrReserved {o : BitVec 8} (ho : reservedOffset o = true) (v : Word) :
    decode (encode (.wrReserved o v)) = .ok (.wrReserved o v) := by
  obtain ⟨r, hr, hs, hmake⟩ := exists_reservedRow ho
  have h := decodeBusop_of_selects hr hs v
  rwa [hmake, BitVec.extractLsb'_append_eq_right] at h

/-- Settles O1: a command by its word, a write to a named register by its own descriptor, and a read or a reserved write
by the row that its offset selects. -/
theorem decodeInvertsEncode : Obligations.DecodeInvertsEncode := by
  intro i hi
  cases i with
  | decodeTile => exact decode_encode_command (c := ⟨.decodeTile, .rgba, false⟩) rfl
  | compose order swap => exact decode_encode_command (c := ⟨.compose, order, swap⟩) rfl
  | decodeCompose order swap => exact decode_encode_command (c := ⟨.decodeCompose, order, swap⟩) rfl
  | rd o => exact decode_encode_rd hi
  | wrReserved o v => exact decode_encode_wrReserved hi v
  | wrId _ | wrCtrl _ | wrStatus _ | wrCmd _ | wrSrcAddr _ | wrSrcLen _ | wrDstAddr _ | wrDstLen _ | wrWidth _
  | wrHeight _ | wrTileCount _ | wrTileIndex _ | wrOutWidth _ | wrOutHeight _ => rfl

/-- Settles O2, by the law of a decoded word. -/
theorem commandWordsEncodeBack : Obligations.CommandWordsEncodeBack := fun _ _ => encodeCommandWord_of_decode

/-- Settles O3: the nine words are evaluated, and any other legal word is the encoding of a well-formed command. -/
theorem nineLegalCommandWords : Obligations.NineLegalCommandWords := by
  refine ⟨rfl, rfl, rfl, rfl, rfl, rfl, rfl, rfl, rfl, fun w c h => ?_⟩
  obtain ⟨rfl, hwf⟩ := encodeCommandWord_of_decode h
  exact List.mem_map_of_mem (f := encodeCommandWord) (mem_legalCommands hwf)

/-! ### Encoding inverts decoding on the bus -/

/-- What a row makes of a descriptor it selects is well-formed and encodes to that descriptor; a read carries no value
(R106). -/
def EncodesBack (r : BusRow) : Prop :=
  ∀ (w : Bool) (o : BitVec 8) (v : Word), r.selects (BitVec.ofBool w ++ o) = true →
    (r.make o v).wellFormed = true ∧ encode (r.make o v) = .busop (BitVec.ofBool w ++ o) (if w then v else 0)

theorem encodesBack_rd : EncodesBack ⟨0x103, 0x000, fun o _ => .rd o⟩ := by
  have hrow : ∀ (w : Bool) (o : BitVec 8), (BitVec.ofBool w ++ o) &&& 0x103 = 0 → w = false ∧ aligned o = true := by
    decide
  intro w o v hs
  obtain ⟨rfl, ho⟩ := hrow w o (by simpa [BusRow.selects] using hs)
  exact ⟨ho, rfl⟩

/-- A row that fixes all nine bits, of a write. -/
theorem encodesBack_fixed (o' : BitVec 8) (make : Word → Instr)
    (h : ∀ v, (make v).wellFormed = true ∧ encode (make v) = .busop (1#1 ++ o') v) :
    EncodesBack ⟨0x1FF, 1#1 ++ o', fun _ v => make v⟩ := by
  intro w o v hs
  have hd : BitVec.ofBool w ++ o = 1#1 ++ o' := by
    have hall : (BitVec.ofBool w ++ o) &&& BitVec.allOnes 9 = 1#1 ++ o' := by simpa [BusRow.selects] using hs
    rwa [BitVec.and_allOnes] at hall
  have hw := congrArg (BitVec.extractLsb' 8 1) hd
  rw [BitVec.extractLsb'_append_eq_left, BitVec.extractLsb'_append_eq_left] at hw
  obtain rfl : w = true := BitVec.ofBool_eq_iff_eq.mp hw
  rw [hd]
  exact h v

/-- A row of WR.RESERVED. -/
theorem encodesBack_reserved {mask pattern : BitVec 9}
    (h : ∀ (w : Bool) (o : BitVec 8), (BitVec.ofBool w ++ o) &&& mask = pattern → w = true ∧ reservedOffset o = true) :
    EncodesBack ⟨mask, pattern, fun o v => .wrReserved o v⟩ := by
  intro w o v hs
  obtain ⟨rfl, ho⟩ := h w o (by simpa [BusRow.selects] using hs)
  exact ⟨ho, rfl⟩

theorem busTable_encodesBack : ∀ r ∈ busTable, EncodesBack r := by
  simp only [busTable, List.forall_mem_cons, List.not_mem_nil, false_imp_iff, implies_true, and_true]
  exact ⟨encodesBack_rd,
    encodesBack_fixed 0x00 .wrId fun _ => ⟨rfl, rfl⟩,
    encodesBack_fixed 0x04 .wrCtrl fun _ => ⟨rfl, rfl⟩,
    encodesBack_fixed 0x08 .wrStatus fun _ => ⟨rfl, rfl⟩,
    encodesBack_fixed 0x0C .wrCmd fun _ => ⟨rfl, rfl⟩,
    encodesBack_fixed 0x10 .wrSrcAddr fun _ => ⟨rfl, rfl⟩,
    encodesBack_fixed 0x14 .wrSrcLen fun _ => ⟨rfl, rfl⟩,
    encodesBack_fixed 0x18 .wrDstAddr fun _ => ⟨rfl, rfl⟩,
    encodesBack_fixed 0x1C .wrDstLen fun _ => ⟨rfl, rfl⟩,
    encodesBack_fixed 0x20 .wrWidth fun _ => ⟨rfl, rfl⟩,
    encodesBack_fixed 0x24 .wrHeight fun _ => ⟨rfl, rfl⟩,
    encodesBack_fixed 0x28 .wrTileCount fun _ => ⟨rfl, rfl⟩,
    encodesBack_fixed 0x2C .wrTileIndex fun _ => ⟨rfl, rfl⟩,
    encodesBack_fixed 0x30 .wrOutWidth fun _ => ⟨rfl, rfl⟩,
    encodesBack_fixed 0x34 .wrOutHeight fun _ => ⟨rfl, rfl⟩,
    encodesBack_reserved (by decide), encodesBack_reserved (by decide), encodesBack_reserved (by decide)⟩

/-! ### Transactions -/

/-- A 4-byte aligned transaction decodes by some row of the table (R106). -/
theorem decodeTransaction_of_aligned {t : Transaction} (hw : t.width = 4) (ho : aligned t.offset = true) :
    ∃ r ∈ busTable, r.selects t.descriptor = true ∧ decodeTransaction t = .ok (r.make t.offset t.value) := by
  obtain ⟨r, hr, hs⟩ := exists_selects_of_aligned t.write t.offset ho
  refine ⟨r, hr, hs, ?_⟩
  have h := decodeBusop_of_selects hr hs t.value
  rw [BitVec.extractLsb'_append_eq_right] at h
  rwa [decodeTransaction, if_pos hw]

/-- A transaction that decodes is 4 bytes wide and aligned (R200). -/
theorem aligned_of_decodeTransaction {t : Transaction} {i : Instr} (h : decodeTransaction t = .ok i) :
    t.width = 4 ∧ aligned t.offset = true := by
  obtain ⟨hw, hd⟩ := decodeTransaction_ok h
  obtain ⟨r, hr, hs, -⟩ := decodeBusop_ok hd
  exact ⟨hw, aligned_of_selects hr hs⟩

/-- Settles O4: an aligned offset has a row, which makes an operation that encodes back; and every row asks for an aligned
offset. -/
theorem transactionsSelectTheirOperation : Obligations.TransactionsSelectTheirOperation := by
  refine fun t => ⟨fun ⟨hw, ho⟩ => ?_, fun hn => ?_⟩
  · obtain ⟨r, hr, hs, hd⟩ := decodeTransaction_of_aligned hw (beq_iff_eq.mpr ho)
    exact ⟨_, hd, busTable_encodesBack r hr _ _ _ hs⟩
  · cases hd : decodeTransaction t with
    | error e => exact ⟨e, rfl⟩
    | ok i =>
      obtain ⟨hw, ho⟩ := aligned_of_decodeTransaction hd
      exact absurd ⟨hw, beq_iff_eq.mp ho⟩ hn

/-- Settles O6: each word is decoded by evaluation. -/
theorem specWordsDecode : Obligations.SpecWordsDecode :=
  ⟨rfl, rfl, rfl, rfl, rfl, rfl, rfl, rfl, rfl, rfl, rfl, rfl⟩

/-! ### Illegal command words -/

theorem opcodeField_toNat (w : Word) : (opcodeField w).toNat = w.toNat % 16 := by
  rw [opcodeField, BitVec.extractLsb'_toNat, Nat.shiftRight_zero]

/-- An OPCODE other than 1, 2 and 3 is reserved, whatever the other bits are (R93 a). -/
theorem decodeCommandWord_reservedOpcode {w : Word} (h : w.toNat % 16 ∉ [1, 2, 3]) :
    decodeCommandWord w = .error .reservedOpcode := by
  have hmap : ∀ f : BitVec 4, f.toNat ∉ [1, 2, 3] → opOfField f = none := by decide
  rw [← opcodeField_toNat] at h
  simp only [decodeCommandWord, hmap _ h]

/-- A legal OPCODE with a reserved bit set (R93 b). -/
theorem decodeCommandWord_reservedBits {w : Word} {op : Op} (hop : opOfField (opcodeField w) = some op)
    (hr : reservedField op w ≠ 0) : decodeCommandWord w = .error .reservedBits := by
  simp only [decodeCommandWord, hop, if_neg hr]

/-- The reserved bits of a word, in numbers: above bit 3 for DECODE_TILE, above bit 5 for the others (R91). -/
theorem decodeCommandWord_reservedBits_of_toNat {w : Word}
    (h : (w.toNat % 16 = 1 ∧ w.toNat / 16 ≠ 0) ∨ (w.toNat % 16 ∈ [2, 3] ∧ w.toNat / 64 ≠ 0)) :
    decodeCommandWord w = .error .reservedBits := by
  have hshift : ∀ k, w.toNat / 2 ^ k ≠ 0 → w >>> k ≠ 0 := fun k hk e => hk <| by
    rw [← Nat.shiftRight_eq_div_pow, ← BitVec.toNat_ushiftRight, e]; rfl
  have htile : ∀ f : BitVec 4, f.toNat = 1 → opOfField f = some .decodeTile := by decide
  have himage : ∀ f : BitVec 4, f.toNat ∈ [2, 3] →
      opOfField f = some .compose ∨ opOfField f = some .decodeCompose := by decide
  rw [← opcodeField_toNat] at h
  rcases h with ⟨hop, hr⟩ | ⟨hop, hr⟩
  · exact decodeCommandWord_reservedBits (htile _ hop) (hshift 4 hr)
  · rcases himage _ hop with hop | hop
    · exact decodeCommandWord_reservedBits hop (hshift 6 hr)
    · exact decodeCommandWord_reservedBits hop (hshift 6 hr)

/-- An illegal word written to CMD in IDLE is rejected before any operand is looked at (R206, R231). -/
theorem execWrCmd_illegal {s : State} {v : Word} {e : IllegalWord} (hs : s.engine = .idle)
    (h : decodeCommandWord v = .error e) :
    exec (.wrCmd v) s = .next ((s.reject (illegalWordError e)).respond .done) := by
  simp [exec, execWrCmd, State.busy_of_idle hs, State.issue_of_error (check_of_illegal h)]

/-- Settles O30: the word alone is illegal, so the rejection does not depend on the registers. -/
theorem illegalWordsAreRejected : Obligations.IllegalWordsAreRejected := fun _ _ hs =>
  ⟨fun h => ⟨.done, execWrCmd_illegal hs (decodeCommandWord_reservedOpcode h)⟩,
   fun h => ⟨.done, execWrCmd_illegal hs (decodeCommandWord_reservedBits_of_toNat h)⟩⟩

/-! ### The host's turn in IDLE -/

/-- In IDLE with no model fault the next turn is the host's (R212). -/
theorem turn_idle {s : State} {a : HostAction} {rest : List HostAction} (hf : s.faults = []) (he : s.engine = .idle)
    (hh : s.host = a :: rest) : turn s = hostTurn a { s with host := rest } := by
  unfold turn
  rw [hf, he, hh]

theorem hostTurn_of_transaction {a : HostAction} {t : Transaction} (h : a.transaction = some t) (s : State) :
    hostTurn a s = busTurn t s := by
  cases a with
  | bus t' => obtain rfl : t' = t := Option.some.inj h; rfl
  | busAt b =>
    have hb : b.transaction = some t := h
    simp only [hostTurn, hb]
  | memRead _ | memWrite _ _ | hardReset => cases h

/-- Settles O7: the turn is the host's, and that of a transaction runs the instruction it decodes to. -/
theorem stepRunsTheHostsInstruction : Obligations.StepRunsTheHostsInstruction := by
  intro s a rest hf he hh
  have hstep : step s = (hostTurn a { s with host := rest }).outcome := by rw [step_eq_outcome, turn_idle hf he hh]
  refine ⟨hstep, fun t i ht hi => ?_⟩
  rw [hstep, hostTurn_of_transaction ht, busTurn_outcome_of_ok hi]

/-- Settles O32: the command's encoding is the word R105 gives. -/
theorem commandsAreIssuedByTheirWord : Obligations.CommandsAreIssuedByTheirWord := by
  intro s order swap hs
  refine ⟨execCommand_idle_word hs (c := ⟨.decodeTile, .rgba, false⟩) rfl, ?_, ?_⟩
  · refine (execCommand_idle_word hs (c := ⟨.compose, order, swap⟩) rfl).trans ?_
    cases order <;> cases swap <;> rfl
  · refine (execCommand_idle_word hs (c := ⟨.decodeCompose, order, swap⟩) rfl).trans ?_
    cases order <;> cases swap <;> rfl

/-! ### Expanded colours -/

/-- An expanded 5-bit field fits a byte (R123, R133). -/
theorem exp5_lt {v : Nat} (h : v < 32) : exp5 v < 256 := by
  rw [exp5, Nat.shiftRight_eq_div_pow]; omega

/-- An expanded 6-bit field fits a byte (R123, R133). -/
theorem exp6_lt {v : Nat} (h : v < 64) : exp6 v < 256 := by
  rw [exp6, Nat.shiftRight_eq_div_pow]; omega

/-- The three fields of a packed colour, in numbers (R95, R122). -/
theorem ext565_toNat (c : BitVec 16) :
    (ext565 c).1.toNat = c.toNat / 2048 ∧ (ext565 c).2.1.toNat = c.toNat / 32 % 64 ∧
      (ext565 c).2.2.toNat = c.toNat % 32 := by
  have hc := c.isLt
  simp only [ext565, BitVec.extractLsb'_toNat, Nat.shiftRight_eq_div_pow, true_and]
  omega

/-- Settles O43: each field expands to a number that fits a byte, so the narrowing of the channel loses nothing. -/
theorem expandedColourIsExact : Obligations.ExpandedColourIsExact := by
  intro c
  obtain ⟨hr, hg, hb⟩ := ext565_toNat c
  rw [← hr, ← hg, ← hb]
  exact ⟨Nat.mod_eq_of_lt (exp5_lt (ext565 c).1.isLt), Nat.mod_eq_of_lt (exp6_lt (ext565 c).2.1.isLt),
    Nat.mod_eq_of_lt (exp5_lt (ext565 c).2.2.isLt)⟩

end Sys2Proof.Machine
end

section
/-! PROOFS. The block decoder: the expansion of every code (R123, R134), the palettes and the selectors (R124 to R129),
the numbering of a decoded tile's pixels (R130, R132), and the engine's DECODE_TILE (R140, R211). -/

namespace Sys2Proof.Machine

/-! ### The expansion -/

theorem exp5_eq_div (v : Nat) : exp5 v = (v * 527 + 23) / 64 := Nat.shiftRight_eq_div_pow _ _

theorem exp6_eq_div (v : Nat) : exp6 v = (v * 259 + 33) / 64 := Nat.shiftRight_eq_div_pow _ _

/-- The 5-bit expansion is `v*255/31` rounded to nearest, code by code (R134). -/
theorem exp5_rounds : ∀ v, v < 32 → exp5 v = (2 * v * 255 + 31) / 62 := by decide

/-- The 6-bit expansion is `v*255/63` rounded to nearest, code by code (R134). -/
theorem exp6_rounds : ∀ v, v < 64 → exp6 v = (2 * v * 255 + 63) / 126 := by decide

/-- Settles O40: the rounding is checked for each code, and the bounds are those of the formula at its largest code. -/
theorem expansionRounds : Obligations.ExpansionRounds := by
  refine ⟨fun v hv => ⟨exp5_eq_div v, exp5_rounds v hv, Nat.le_of_lt_succ (exp5_lt hv), by omega⟩,
    fun v hv => ⟨exp6_eq_div v, exp6_rounds v hv, Nat.le_of_lt_succ (exp6_lt hv), by omega⟩, rfl, rfl, rfl, rfl⟩

/-! ### Palettes -/

/-- Where a formula on bytes answers a byte, narrowing its results to the channels loses nothing (R133). -/
theorem perChannel_toNat {f : Nat → Nat → Nat} (hf : ∀ a b, a < 256 → b < 256 → f a b < 256) (p0 p1 : Rgb) :
    (perChannel f p0 p1).r.toNat = f p0.r.toNat p1.r.toNat ∧
      (perChannel f p0 p1).g.toNat = f p0.g.toNat p1.g.toNat ∧
      (perChannel f p0 p1).b.toNat = f p0.b.toNat p1.b.toNat :=
  ⟨Nat.mod_eq_of_lt (hf _ _ p0.r.isLt p1.r.isLt), Nat.mod_eq_of_lt (hf _ _ p0.g.isLt p1.g.isLt),
    Nat.mod_eq_of_lt (hf _ _ p0.b.isLt p1.b.isLt)⟩

/-- Settles O41: each of the three formulas is a weighted mean of two bytes, so it answers a byte. -/
theorem palettesAreExact : Obligations.PalettesAreExact := by
  intro p0 p1
  obtain ⟨r2, g2, b2⟩ := perChannel_toNat (f := fun a b => (2 * a + b) / 3) (by intros; omega) p0 p1
  obtain ⟨r3, g3, b3⟩ := perChannel_toNat (f := fun a b => (a + 2 * b) / 3) (by intros; omega) p0 p1
  obtain ⟨rm, gm, bm⟩ := perChannel_toNat (f := fun a b => (a + b) / 2) (by intros; omega) p0 p1
  exact ⟨rfl, rfl, r2, g2, b2, r3, g3, b3, rfl, rfl, rm, gm, bm, rfl⟩

/-- The mode test of a block, on the packed values as numbers (R125). -/
theorem palette_eq (color0 color1 : BitVec 16) :
    palette color0 color1 = if color1.toNat < color0.toNat then palette4 (to888 color0) (to888 color1)
      else palette3 (to888 color0) (to888 color1) := by
  simp only [palette, fourColour, decide_eq_true_eq]

/-- The first colour is color0's in both modes (R126, R127). -/
theorem palette_c0 (color0 color1 : BitVec 16) : (palette color0 color1).c0 = to888 color0 := by
  rw [palette_eq]
  split <;> rfl

/-! ### Selectors -/

/-- A selector is two bits of the codes, as a number (R124, R128). -/
theorem selector_toNat (codes : BitVec 32) (xb yb : Nat) :
    (selector (selword codes) xb yb).toNat = codes.toNat / 2 ^ ((yb * 4 + xb) * 2) % 4 := by
  have hmask : ∀ n : Nat, n &&& 3 = n % 4 := fun n => Nat.and_two_pow_sub_one_eq_mod n 2
  simp [selector, selword, hmask, Nat.shiftRight_eq_div_pow]

/-- The colour of a selector, by its number (R129). -/
theorem Palette.get_eq_of_toNat (p : Palette) (sel : BitVec 2) :
    p.get sel = if sel.toNat = 0 then p.c0 else if sel.toNat = 1 then p.c1
      else if sel.toNat = 2 then p.c2 else p.c3 := by
  simp only [Palette.get, ← BitVec.toNat_inj]
  rfl

/-- Settles O42: the selector by its number, in the palette of the block's mode. -/
theorem blockPixelsFollowTheirSelectors : Obligations.BlockPixelsFollowTheirSelectors := by
  intro color0 color1 codes xb yb _ _ sel pal c
  have hc : c = (palette color0 color1).get (selector (selword codes) xb yb) := by
    rw [Palette.get_eq_of_toNat, selector_toNat, palette_eq]
  refine ⟨?_, fun hsel => ?_⟩
  · rw [hc]
    rfl
  · have h0 : selector (selword codes) xb yb = 0 := BitVec.eq_of_toNat_eq ((selector_toNat codes xb yb).trans hsel)
    rw [hc, h0]
    exact palette_c0 color0 color1

/-! ### The pixels of a tile -/

theorem tilePixelNumber_lt {bx by_ xb yb : Nat} (hbx : bx < 128) (hby : by_ < 128) (hxb : xb < 4) (hyb : yb < 4) :
    tilePixelNumber bx by_ xb yb < 262144 :=
  rowMajor_lt (rows := 512) (width := 512) (rowMajor_lt hby hyb) (rowMajor_lt hbx hxb)

/-- A pixel number says its block and the place there (R97, R130). -/
theorem tilePixelNumber_digits {bx by_ xb yb : Nat} (hbx : bx < 128) (hxb : xb < 4) (hyb : yb < 4) :
    tilePixelNumber bx by_ xb yb % 512 / 4 = bx ∧ tilePixelNumber bx by_ xb yb / 512 / 4 = by_ ∧
      tilePixelNumber bx by_ xb yb % 512 % 4 = xb ∧ tilePixelNumber bx by_ xb yb / 512 % 4 = yb := by
  have hx : bx * 4 + xb < 512 := rowMajor_lt hbx hxb
  have hcolumn : tilePixelNumber bx by_ xb yb % 512 = bx * 4 + xb := rowMajor_mod hx
  have hrow : tilePixelNumber bx by_ xb yb / 512 = by_ * 4 + yb := rowMajor_div hx
  rw [hcolumn, hrow]
  exact ⟨rowMajor_div hxb, rowMajor_div hyb, rowMajor_mod hxb, rowMajor_mod hyb⟩

theorem tilePixelNumber_of_digits (i : Nat) :
    tilePixelNumber (i % 512 / 4) (i / 512 / 4) (i % 512 % 4) (i / 512 % 4) = i := by
  simp only [tilePixelNumber, Config.tileDim]
  omega

/-- The decoded tile has at a pixel's number the pixel of its block (R130, R132). -/
theorem decodeTilePixel_tilePixelNumber (order : ByteOrder) (m : Memory) (tb : Nat) {bx by_ xb yb : Nat}
    (hbx : bx < 128) (hxb : xb < 4) (hyb : yb < 4) :
    decodeTilePixel order m tb (tilePixelNumber bx by_ xb yb) = decodeBlockAt order m (blockAddr tb bx by_) xb yb := by
  obtain ⟨hbx', hby', hxb', hyb'⟩ := tilePixelNumber_digits (by_ := by_) hbx hxb hyb
  simp only [decodeTilePixel, Config.tileDim, Config.blockDim, hbx', hby', hxb', hyb']

/-- Settles O45: a pixel number's block and place are its digits, which is existence, uniqueness and the pixel there. -/
theorem tilePixelNumbersAreABijection : Obligations.TilePixelNumbersAreABijection := by
  refine ⟨fun _ _ _ _ => tilePixelNumber_lt, fun i hi => ?_,
    fun order m tb _ _ _ _ hbx _ hxb hyb => decodeTilePixel_tilePixelNumber order m tb hbx hxb hyb⟩
  refine ⟨i % 512 / 4, i / 512 / 4, i % 512 % 4, i / 512 % 4, by omega, by omega, by omega, by omega,
    tilePixelNumber_of_digits i, ?_⟩
  rintro bx' by' xb' yb' hbx - hxb hyb rfl
  obtain ⟨h1, h2, h3, h4⟩ := tilePixelNumber_digits (by_ := by') hbx hxb hyb
  exact ⟨h1.symm, h2.symm, h3.symm, h4.symm⟩

/-! ### DECODE_TILE -/

/-- Byte `k` of pixel `i` of the decoded tile (R98). -/
theorem decodedTileByte_pixel (order : ByteOrder) (m : Memory) (tb i : Nat) {k : Nat} (hk : k < 4) :
    decodedTileByte order m tb (4 * i + k) = (decodeTilePixel order m tb i).byte k := by
  have e1 : (4 * i + k) / 4 = i := by omega
  have e2 : (4 * i + k) % 4 = k := by omega
  simp only [decodedTileByte, Config.pixelBytes, e1, e2]

theorem blockAddr_eq (tb bx by_ : Nat) : blockAddr tb bx by_ = tb + by_ * 1024 + bx * 8 := by
  simp only [blockAddr, Config.blockBytes, Config.blocksPerRow]
  omega

/-- The engine's DECODE_TILE completes where its ranges are in the address space (R140, R211). -/
theorem execDecodeTile_completes {s : State} {sn : Snapshot} (h : s.engine = .busy sn)
    (hsrc : sn.regs.srcAddr.toNat + 131072 * sn.regs.tileIndex.toNat + 131072 ≤ 2 ^ 32)
    (hdst : sn.regs.dstAddr.toNat + 1048576 ≤ 2 ^ 32) :
    exec .decodeTile s = .next (s.complete ⟨sn.regs.dstAddr.toNat, 1048576⟩
      (decodedTileByte Config.blockByteOrder s.mem (sn.regs.srcAddr.toNat + 131072 * sn.regs.tileIndex.toNat))
      512 512) :=
  (execDecodeTile_busy h).trans
    (State.perform_of_inSpace _ _ _ (ByteRange.inSpace_iff.mpr hsrc) (ByteRange.inSpace_iff.mpr hdst))

/-- Byte `k` of pixel `i` of the destination after a tile's completion (R98, R140). -/
theorem State.complete_tile_read (s : State) (order : ByteOrder) (m : Memory) (tb dst : Nat) (w h : Word) {i k : Nat}
    (hi : i < 262144) (hk : k < 4) :
    Memory.read (s.complete ⟨dst, 1048576⟩ (decodedTileByte order m tb) w h).mem (dst + 4 * i + k)
      = (decodeTilePixel order m tb i).byte k := by
  rw [Nat.add_assoc, State.complete_byte (d := ⟨dst, 1048576⟩) s _ w h (show 4 * i + k < 1048576 by omega),
    decodedTileByte_pixel order m tb i hk]

/-- Settles O33: the completion writes at each pixel's number the four bytes of the pixel of its block. -/
theorem decodeTileCompletes : Obligations.DecodeTileCompletes := by
  intro s sn hs hsrc hdst
  refine ⟨_, execDecodeTile_completes hs hsrc hdst, ?_, State.complete_sameOutside s _ _ _ _,
    rfl, rfl, rfl, rfl, rfl⟩
  intro bx by_ xb yb hbx hby hxb hyb tb p at_
  have hp : decodeTilePixel Config.blockByteOrder s.mem tb (tilePixelNumber bx by_ xb yb) = p := by
    rw [decodeTilePixel_tilePixelNumber _ _ _ hbx hxb hyb, blockAddr_eq]
  have hread : ∀ k, k < 4 → Memory.read (s.complete ⟨sn.regs.dstAddr.toNat, 1048576⟩
      (decodedTileByte Config.blockByteOrder s.mem tb) 512 512).mem (at_ + k) = p.byte k := fun k hk =>
    (State.complete_tile_read s _ _ _ _ _ _ (tilePixelNumber_lt hbx hby hxb hyb) hk).trans (congrArg (·.byte k) hp)
  exact ⟨hread 0 (by decide), hread 1 (by decide), hread 2 (by decide), hread 3 (by decide)⟩

end Sys2Proof.Machine
end

section
/-! PROOFS. The Tile Compositor: the remap of a tile and its inverse (R165, R166), the destination numbers (R169, R171),
the loop nest against the closed form (R172, R173), and the engine's COMPOSE (R175, R211). -/

namespace Sys2Proof.Machine

/-! ### The remap -/

theorem unmap_lt {x y : Nat} (hx : x < 512) (hy : y < 512) : (unmap (x, y)).1 < 512 ∧ (unmap (x, y)).2 < 512 := by
  unfold unmap
  split
  · exact ⟨by omega, hy⟩
  · exact ⟨by omega, Nat.mod_lt _ (by decide)⟩

/-- The columns above 503 read the eight columns that wrap, four rows on; every other column reads eight to the
right. -/
theorem unmap_remap {x y : Nat} (hx : x < 512) (hy : y < 512) : unmap (remap (x, y)) = (x, y) := by
  by_cases h : x > 503
  · have hwrap : remap (x, y) = (x - 504, (y + 4) % 512) := by
      simp only [remap, remapX, remapY, if_pos h, Prod.mk.injEq, and_true]
      omega
    rw [hwrap, unmap, if_neg (by omega)]
    simp only [Prod.mk.injEq]
    omega
  · have hshift : remap (x, y) = (x + 8, y) := by
      simp only [remap, remapX, remapY, if_neg h, Prod.mk.injEq, and_true]
      omega
    rw [hshift, unmap, if_pos (by omega)]
    simp only [Nat.add_sub_cancel]

theorem remap_unmap {x y : Nat} (hx : x < 512) (hy : y < 512) : remap (unmap (x, y)) = (x, y) := by
  by_cases h : x ≥ 8
  · have hshift : unmap (x, y) = (x - 8, y) := if_pos h
    rw [hshift]
    simp only [remap, remapX, remapY, Prod.mk.injEq]
    rw [if_neg (by omega)]
    omega
  · have hwrap : unmap (x, y) = (x + 504, (y + 508) % 512) := if_neg h
    rw [hwrap]
    simp only [remap, remapX, remapY, Prod.mk.injEq]
    rw [if_pos (by omega)]
    omega

/-- Settles O46: the remap and unmap stay in the tile and undo one another, in the columns that wrap and in the
others. -/
theorem remapIsABijection : Obligations.RemapIsABijection := fun x _ hx hy =>
  ⟨remapX_lt x, remapY_lt x hy, unmap_remap hx hy, (unmap_lt hx hy).1, (unmap_lt hx hy).2, remap_unmap hx hy⟩

/-! ### The destination numbers -/

/-- A destination number is row-major in image coordinates (R169). -/
theorem destNumber_eq (ws row col x y : Nat) :
    destNumber ws row col x y = (row * 512 + y) * ws + (col * 512 + x) := Nat.add_assoc _ _ _

theorem column_lt {cols col x : Nat} (hcol : col < cols) (hx : x < 512) : col * 512 + x < 512 * cols := by
  rw [Nat.mul_comm 512]
  exact rowMajor_lt hcol hx

theorem destNumber_lt {rows cols row col x y : Nat} (hrow : row < rows) (hcol : col < cols) (hx : x < 512)
    (hy : y < 512) : destNumber (512 * cols) row col x y < (512 * rows) * (512 * cols) := by
  rw [destNumber_eq]
  exact rowMajor_lt (column_lt hrow hy) (column_lt hcol hx)

/-- A destination number says its cell and the position there (R169). -/
theorem destNumber_digits {cols row col x y : Nat} (hcol : col < cols) (hx : x < 512) (hy : y < 512) :
    destNumber (512 * cols) row col x y / (512 * cols) / 512 = row ∧
      destNumber (512 * cols) row col x y % (512 * cols) / 512 = col ∧
      destNumber (512 * cols) row col x y % (512 * cols) % 512 = x ∧
      destNumber (512 * cols) row col x y / (512 * cols) % 512 = y := by
  rw [destNumber_eq, rowMajor_div (column_lt hcol hx), rowMajor_mod (column_lt hcol hx)]
  exact ⟨rowMajor_div hy, rowMajor_div hx, rowMajor_mod hx, rowMajor_mod hy⟩

/-- Two cells and positions of one grid with the same destination number are the same. -/
theorem destNumber_inj {cols row col x y row' col' x' y' : Nat} (hcol : col < cols) (hx : x < 512) (hy : y < 512)
    (hcol' : col' < cols) (hx' : x' < 512) (hy' : y' < 512)
    (h : destNumber (512 * cols) row' col' x' y' = destNumber (512 * cols) row col x y) :
    row' = row ∧ col' = col ∧ x' = x ∧ y' = y := by
  have digits := destNumber_digits (row := row') hcol' hx' hy'
  rw [h] at digits
  obtain ⟨h1, h2, h3, h4⟩ := digits
  obtain ⟨h1', h2', h3', h4'⟩ := destNumber_digits (row := row) hcol hx hy
  exact ⟨h1.symm.trans h1', h2.symm.trans h2', h3.symm.trans h3', h4.symm.trans h4'⟩

theorem destNumber_of_digits (ws d : Nat) :
    destNumber ws (d / ws / 512) (d % ws / 512) (d % ws % 512) (d / ws % 512) = d := by
  rw [destNumber_eq, Nat.div_add_mod', Nat.div_add_mod', Nat.div_add_mod']

/-- The cell and the position that every number below the image's size has. -/
theorem exists_destNumber {rows cols d : Nat} (hd : d < (512 * rows) * (512 * cols)) :
    ∃ row col x y, row < rows ∧ col < cols ∧ x < 512 ∧ y < 512 ∧ destNumber (512 * cols) row col x y = d := by
  have hcols : 0 < 512 * cols := Nat.pos_of_ne_zero fun h => by simp [h] at hd
  have hcolumn : d % (512 * cols) < 512 * cols := Nat.mod_lt _ hcols
  have hrow : d / (512 * cols) < 512 * rows := Nat.div_lt_of_lt_mul (by rwa [Nat.mul_comm])
  exact ⟨_, _, _, _, Nat.div_lt_of_lt_mul hrow, Nat.div_lt_of_lt_mul hcolumn, Nat.mod_lt _ (by decide),
    Nat.mod_lt _ (by decide), destNumber_of_digits _ d⟩

/-- Settles O47: in the grid of the geometry a number's cell and position are its digits, which is existence and
uniqueness. -/
theorem destinationNumbersCoverTheImage : Obligations.DestinationNumbersCoverTheImage := by
  intro w h swap hw hh
  obtain ⟨rows, cols, -, -, hhs, hws, hsize, hcount⟩ := grid_of_legal swap hw hh
  rw [hhs, hws, hsize, Nat.mul_div_cancel_left rows (by decide)]
  dsimp only
  rw [Nat.mul_div_cancel_left cols (by decide)]
  refine ⟨hcount, fun _ _ _ _ => destNumber_lt, fun d hd => ?_⟩
  obtain ⟨row, col, x, y, hrow, hcol, hx, hy, rfl⟩ := exists_destNumber hd
  exact ⟨row, col, x, y, hrow, hcol, hx, hy, rfl, fun _ _ _ _ _ => destNumber_inj hcol hx hy⟩

/-! ### The loop nest -/

/-- The indices of R172's loop nest in the loops' order: row, column, the position's `y` and `x`, and the byte. -/
def loopSteps (rows cols : Nat) : List (Nat × Nat × Nat × Nat × Nat) :=
  List.range rows ×ˢ List.range cols ×ˢ List.range 512 ×ˢ List.range 512 ×ˢ List.range 4

/-- The address that a step of the loop nest writes (R172). -/
def stepAddr (ws dst : Nat) : Nat × Nat × Nat × Nat × Nat → Nat
  | (row, col, y, x, k) => dst + 4 * destNumber ws row col x y + k

/-- The byte that a step of the loop nest writes (R172). -/
def stepByte (tile : Nat → Nat → Pixel) (order : ChannelOrder) (cols : Nat) :
    Nat × Nat × Nat × Nat × Nat → Byte
  | (row, col, y, x, k) => placedByte order (tile (row * cols + col) (remapY x y * 512 + remapX x)) k

theorem mem_loopSteps {rows cols row col y x k : Nat} :
    (row, col, y, x, k) ∈ loopSteps rows cols ↔ row < rows ∧ col < cols ∧ y < 512 ∧ x < 512 ∧ k < 4 := by
  simp only [loopSteps, List.mem_product, List.mem_range]

theorem loopSteps_nodup (rows cols : Nat) : (loopSteps rows cols).Nodup :=
  List.nodup_range.product (List.nodup_range.product (List.nodup_range.product
    (List.nodup_range.product List.nodup_range)))

/-- The loop nest is one write for each of its indices (R172). -/
theorem composeWrites_eq (tile : Nat → Nat → Pixel) {w h rows cols : Nat} {swap : Bool} (order : ChannelOrder)
    (dst : Nat) (hhs : heightStride w h swap = 512 * rows) (hws : widthStride w h swap = 512 * cols) :
    composeWrites tile w h order swap dst
      = (loopSteps rows cols).map fun i => (stepAddr (512 * cols) dst i, stepByte tile order cols i) := by
  have hrows : 512 * rows / 512 = rows := Nat.mul_div_cancel_left _ (by decide)
  have hcols : 512 * cols / 512 = cols := Nat.mul_div_cancel_left _ (by decide)
  simp only [composeWrites, pixelWrites, hhs, hws, Config.tileDim, hrows, hcols, loopSteps, SProd.sprod, List.product,
    List.map_flatMap, List.map_map, Function.comp_def, stepAddr, stepByte]

/-- An address says the step of the loop nest that writes it (R171). -/
theorem stepAddr_inj {rows cols dst : Nat} : ∀ i ∈ loopSteps rows cols, ∀ j ∈ loopSteps rows cols,
    stepAddr (512 * cols) dst i = stepAddr (512 * cols) dst j → i = j := by
  rintro ⟨row, col, y, x, k⟩ hi ⟨row', col', y', x', k'⟩ hj h
  obtain ⟨-, hcol, hy, hx, hk⟩ := mem_loopSteps.mp hi
  obtain ⟨-, hcol', hy', hx', hk'⟩ := mem_loopSteps.mp hj
  simp only [stepAddr] at h
  have hd : destNumber (512 * cols) row col x y = destNumber (512 * cols) row' col' x' y' := by omega
  obtain ⟨rfl, rfl, rfl, rfl⟩ := destNumber_inj hcol' hx' hy' hcol hx hy hd
  obtain rfl : k = k' := by omega
  rfl

/-- The addresses of the loop nest are those of the image (R171). -/
theorem mem_stepAddr {rows cols dst a : Nat} :
    a ∈ (loopSteps rows cols).map (stepAddr (512 * cols) dst)
      ↔ dst ≤ a ∧ a < dst + (512 * rows) * (512 * cols) * 4 := by
  rw [List.mem_map]
  constructor
  · rintro ⟨⟨row, col, y, x, k⟩, hi, rfl⟩
    obtain ⟨hrow, hcol, hy, hx, hk⟩ := mem_loopSteps.mp hi
    have hd := destNumber_lt hrow hcol hx hy
    simp only [stepAddr]
    omega
  · rintro ⟨hlow, hhigh⟩
    have hpixel : (a - dst) / 4 < (512 * rows) * (512 * cols) := by omega
    obtain ⟨row, col, x, y, hrow, hcol, hx, hy, hd⟩ := exists_destNumber hpixel
    refine ⟨(row, col, y, x, (a - dst) % 4),
      mem_loopSteps.mpr ⟨hrow, hcol, hy, hx, Nat.mod_lt _ (by decide)⟩, ?_⟩
    simp only [stepAddr, hd]
    omega

/-- Position `(x, y)` of the tile in cell `(row, col)` shows the remapped pixel of that tile (R163, R165). -/
theorem imagePixel_cell (tile : Nat → Nat → Pixel) {cols row col x y : Nat} (hx : x < 512) (hy : y < 512) :
    imagePixel tile (512 * cols) (col * 512 + x) (row * 512 + y)
      = tile (row * cols + col) (remapY x y * 512 + remapX x) := by
  have hcols : 512 * cols / 512 = cols := Nat.mul_div_cancel_left _ (by decide)
  simp only [imagePixel, Config.tileDim, remap, hcols, rowMajor_div hx, rowMajor_div hy, rowMajor_mod hx,
    rowMajor_mod hy]

/-- Every step of the loop nest writes the closed form's byte at its address (R172, R173). -/
theorem stepByte_eq_imageByte (tile : Nat → Nat → Pixel) (order : ChannelOrder) (dst : Nat) {rows cols : Nat} :
    ∀ i ∈ loopSteps rows cols,
      stepByte tile order cols i = imageByte tile order (512 * cols) (stepAddr (512 * cols) dst i - dst) := by
  rintro ⟨row, col, y, x, k⟩ hi
  obtain ⟨-, hcol, hy, hx, hk⟩ := mem_loopSteps.mp hi
  simp only [stepByte, stepAddr]
  rw [Nat.add_assoc, Nat.add_sub_cancel_left, destNumber_eq, imageByte_pixel tile order (column_lt hcol hx) hk,
    imagePixel_cell tile hx hy]

/-- Settles O39: the loop nest is one write for each of its indices, an index is found back from its address, and every
write agrees with the closed form. -/
theorem loopNestGivesTheClosedForm : Obligations.LoopNestGivesTheClosedForm := by
  intro tile w h order swap dst m hw hh
  obtain ⟨rows, cols, -, -, hhs, hws, hsize, -⟩ := grid_of_legal swap hw hh
  have haddrs : (composeWrites tile w h order swap dst).map Prod.fst
      = (loopSteps rows cols).map (stepAddr (512 * cols) dst) := by
    rw [composeWrites_eq tile order dst hhs hws, List.map_map]
    rfl
  have hbytes : ∀ b ∈ composeWrites tile w h order swap dst,
      b.2 = imageByte tile order (512 * cols) (b.1 - dst) := by
    rw [composeWrites_eq tile order dst hhs hws, List.forall_mem_map]
    exact stepByte_eq_imageByte tile order dst
  constructor
  · rw [haddrs]
    exact (loopSteps_nodup rows cols).map_on stepAddr_inj
  · intro a
    rw [hws, hsize, Memory.read_writeAll (g := fun b => imageByte tile order (512 * cols) (b - dst)) _ m hbytes a,
      haddrs]
    simp only [mem_stepAddr]

/-! ### COMPOSE -/

theorem strides_mul (w h : Nat) (swap : Bool) : heightStride w h swap * widthStride w h swap = w * h := by
  cases swap
  · exact Nat.mul_comm h w
  · rfl

/-- Byte `k` of image pixel `(x, y)` in the destination after a composition's completion (R99, R173). -/
theorem State.complete_image_read (s : State) (tile : Nat → Nat → Pixel) (order : ChannelOrder) (dst : Nat)
    (outW outH : Word) {w h : Nat} {swap : Bool} {x y k : Nat} (hx : x < widthStride w h swap)
    (hy : y < heightStride w h swap) (hk : k < 4) :
    Memory.read (s.complete ⟨dst, w * h * 4⟩ (imageByte tile order (widthStride w h swap)) outW outH).mem
        (dst + 4 * (y * widthStride w h swap + x) + k)
      = placedByte order (imagePixel tile (widthStride w h swap) x y) k := by
  have hpixel : y * widthStride w h swap + x < w * h := strides_mul w h swap ▸ rowMajor_lt hy hx
  rw [Nat.add_assoc, State.complete_byte (d := ⟨dst, w * h * 4⟩) s _ outW outH
    (show 4 * (y * widthStride w h swap + x) + k < w * h * 4 by omega), imageByte_pixel tile order hx hk]

/-- The engine's COMPOSE completes where its ranges are in the address space (R175, R211). -/
theorem execCompose_completes {s : State} {sn : Snapshot} (h : s.engine = .busy sn) (order : ChannelOrder) (swap : Bool)
    (hsrc : sn.regs.srcAddr.toNat + 1048576 * sn.regs.tileCount.toNat ≤ 2 ^ 32)
    (hdst : sn.regs.dstAddr.toNat + sn.regs.width.toNat * sn.regs.height.toNat * 4 ≤ 2 ^ 32) :
    exec (.compose order swap) s = .next (s.complete
      ⟨sn.regs.dstAddr.toNat, sn.regs.width.toNat * sn.regs.height.toNat * 4⟩
      (imageByte (storedTile s.mem sn.regs.srcAddr.toNat) order
        (widthStride sn.regs.width.toNat sn.regs.height.toNat swap))
      (if swap then sn.regs.height else sn.regs.width) (if swap then sn.regs.width else sn.regs.height)) :=
  (execCompose_busy h order swap).trans
    (State.perform_of_inSpace _ _ _ (ByteRange.inSpace_iff.mpr hsrc) (ByteRange.inSpace_iff.mpr hdst))

/-- The four bytes of an output pixel, from the bytes of the stored pixel it shows (R98, R99, R168). -/
theorem placedByte_pixelAt (order : ChannelOrder) (m : Memory) (base p : Nat) :
    placedByte order (pixelAt m base p) 0 = Memory.read m (base + 4 * p + if order = .bgra then 2 else 0) ∧
      placedByte order (pixelAt m base p) 1 = Memory.read m (base + 4 * p + 1) ∧
      placedByte order (pixelAt m base p) 2 = Memory.read m (base + 4 * p + if order = .bgra then 0 else 2) ∧
      placedByte order (pixelAt m base p) 3 = 255 := by
  cases order <;> exact ⟨rfl, rfl, rfl, rfl⟩

/-- Settles O34: the completion writes at each pixel's number the four bytes placed from the stored pixel it shows. -/
theorem composeCompletes : Obligations.ComposeCompletes := by
  intro s sn order swap hs hsrc hdst
  refine ⟨_, execCompose_completes hs order swap hsrc hdst, ?_, State.complete_sameOutside s _ _ _ _,
    rfl, rfl, rfl, rfl, rfl⟩
  intro ws hts x y hx hy x' y' from_ at_
  have hpixel : imagePixel (storedTile s.mem sn.regs.srcAddr.toNat) ws x y
      = pixelAt s.mem (sn.regs.srcAddr.toNat + 1048576 * (y / 512 * (ws / 512) + x / 512)) (y' * 512 + x') := rfl
  obtain ⟨h0, h1, h2, h3⟩ := placedByte_pixelAt order s.mem
    (sn.regs.srcAddr.toNat + 1048576 * (y / 512 * (ws / 512) + x / 512)) (y' * 512 + x')
  rw [← hpixel] at h0 h1 h2 h3
  have hread := fun k => State.complete_image_read s (storedTile s.mem sn.regs.srcAddr.toNat) order
    sn.regs.dstAddr.toNat (if swap then sn.regs.height else sn.regs.width)
    (if swap then sn.regs.width else sn.regs.height) (k := k) hx hy
  exact ⟨(hread 0 (by decide)).trans h0, (hread 1 (by decide)).trans h1, (hread 2 (by decide)).trans h2,
    (hread 3 (by decide)).trans h3⟩

end Sys2Proof.Machine
end

section
/-! PROOFS. DECODE_COMPOSE: the engine's completion, pixel by pixel (R190, R192, R211), and its equality with
DECODE_TILE of each tile into a scratch buffer and COMPOSE from that buffer (R191). -/

namespace Sys2Proof.Machine

/-! ### The engine's DECODE_COMPOSE -/

/-- The engine's DECODE_COMPOSE completes where its ranges are in the address space (R190, R211). -/
theorem execDecodeCompose_completes {s : State} {sn : Snapshot} (h : s.engine = .busy sn) (order : ChannelOrder)
    (swap : Bool) (hsrc : sn.regs.srcAddr.toNat + 131072 * sn.regs.tileCount.toNat ≤ 2 ^ 32)
    (hdst : sn.regs.dstAddr.toNat + sn.regs.width.toNat * sn.regs.height.toNat * 4 ≤ 2 ^ 32) :
    exec (.decodeCompose order swap) s = .next (s.complete
      ⟨sn.regs.dstAddr.toNat, sn.regs.width.toNat * sn.regs.height.toNat * 4⟩
      (imageByte (decodedTile s.mem sn.regs.srcAddr.toNat) order
        (widthStride sn.regs.width.toNat sn.regs.height.toNat swap))
      (if swap then sn.regs.height else sn.regs.width) (if swap then sn.regs.width else sn.regs.height)) :=
  (execDecodeCompose_busy h order swap).trans
    (State.perform_of_inSpace _ _ _ (ByteRange.inSpace_iff.mpr hsrc) (ByteRange.inSpace_iff.mpr hdst))

/-- The block and the place in it of the tile pixel in column `x` and row `y` (R97, R130, R192). -/
theorem decodeTilePixel_rowMajor (order : ByteOrder) (m : Memory) (tb : Nat) {x y : Nat} (hx : x < 512) :
    decodeTilePixel order m tb (y * 512 + x)
      = decodeBlockAt order m (tb + y / 4 * 1024 + x / 4 * 8) (x % 4) (y % 4) := by
  simp only [decodeTilePixel, Config.tileDim, Config.blockDim, rowMajor_mod hx, rowMajor_div hx, blockAddr_eq]

/-- Settles O35: the completion writes at each pixel's number the four bytes placed from the pixel of its block. -/
theorem decodeComposeCompletes : Obligations.DecodeComposeCompletes := by
  intro s sn order swap hs hsrc hdst
  refine ⟨_, execDecodeCompose_completes hs order swap hsrc hdst, ?_, State.complete_sameOutside s _ _ _ _,
    rfl, rfl, rfl, rfl, rfl⟩
  intro ws hts x y hx hy x' y' tile block p at_
  have hpixel : imagePixel (decodedTile s.mem sn.regs.srcAddr.toNat) ws x y = p :=
    decodeTilePixel_rowMajor Config.blockByteOrder s.mem (sn.regs.srcAddr.toNat + 131072 * tile)
      (remapX_lt (x % 512))
  have hread : ∀ k, k < 4 → Memory.read _ (at_ + k) = placedByte order p k := fun k hk =>
    (State.complete_image_read s (decodedTile s.mem sn.regs.srcAddr.toNat) order sn.regs.dstAddr.toNat
      (if swap then sn.regs.height else sn.regs.width) (if swap then sn.regs.width else sn.regs.height) hx hy hk).trans
      (congrArg (placedByte order · k) hpixel)
  exact ⟨hread 0 (by decide), hread 1 (by decide), hread 2 (by decide), hread 3 (by decide)⟩

/-! ### Ranges that share no byte -/

theorem ByteRange.overlaps_eq_false_iff {r d : ByteRange} :
    r.overlaps d = false ↔ d.start + d.len ≤ r.start ∨ r.start + r.len ≤ d.start := by
  rw [← Bool.not_eq_true, ByteRange.overlaps_iff]
  omega

/-- What changes only in one range leaves the bytes of a range that shares no byte with it. -/
theorem Memory.SameOutside.sameInside {r d : ByteRange} {m m' : Memory} (h : Memory.SameOutside d m m')
    (hrd : r.overlaps d = false) : Memory.SameInside r m m' := by
  intro a ha
  refine h a (Bool.eq_false_iff.mpr fun hd => ?_)
  rw [ByteRange.overlaps_eq_false_iff] at hrd
  rw [ByteRange.contains_iff] at ha hd
  omega

theorem Memory.SameInside.trans {r : ByteRange} {m m' m'' : Memory} (h : Memory.SameInside r m m')
    (h' : Memory.SameInside r m' m'') : Memory.SameInside r m m'' := fun a ha => (h' a ha).trans (h a ha)

/-! ### DECODE_TILE of each tile into a scratch buffer -/

/-- COMPOSE reads back from a tile's completion the pixels that DECODE_TILE decoded (R65, R98, R161). -/
theorem State.complete_tile_pixelAt (s : State) (order : ByteOrder) (m : Memory) (tb dst : Nat) (w h : Word) {p : Nat}
    (hp : p < 262144) :
    pixelAt (s.complete ⟨dst, 1048576⟩ (decodedTileByte order m tb) w h).mem dst p
      = decodeTilePixel order m tb p := by
  have hread := fun k => State.complete_tile_read s order m tb dst w h (k := k) hp
  have hfirst : Memory.read _ (dst + 4 * p) = _ := hread 0 (by decide)
  rw [pixelAt, hfirst, hread 1 (by decide), hread 2 (by decide), hread 3 (by decide)]
  rfl

/-- The next tile's completion, in its place of the scratch buffer, after the tiles before it (R140, R191). -/
theorem decodeTilesInto_succ {r : OperandRegs} {scratch : Word} {n : Nat} {s t : State}
    (ht : decodeTilesInto r scratch n s = .next t) (hsrc : r.srcAddr.toNat + 131072 * n + 131072 ≤ 2 ^ 32)
    (hscratch : scratch.toNat + 1048576 * n + 1048576 ≤ 2 ^ 32) :
    decodeTilesInto r scratch (n + 1) s = .next (t.complete ⟨scratch.toNat + 1048576 * n, 1048576⟩
      (decodedTileByte Config.blockByteOrder t.mem (r.srcAddr.toNat + 131072 * n)) 512 512) := by
  have hindex : (BitVec.ofNat 32 n).toNat = n := Nat.mod_eq_of_lt (by omega)
  have haddr : (BitVec.ofNat 32 (scratch.toNat + 1048576 * n)).toNat = scratch.toNat + 1048576 * n :=
    Nat.mod_eq_of_lt (by omega)
  have hexec := execDecodeTile_completes
    (s := { t with engine := .busy ⟨⟨.decodeTile, .rgba, false⟩,
      { r with dstAddr := BitVec.ofNat 32 (scratch.toNat + 1048576 * n), tileIndex := BitVec.ofNat 32 n }⟩ }) rfl
  simp only [hindex, haddr] at hexec
  simp only [decodeTilesInto, ht]
  exact hexec hsrc hscratch

/-- With a scratch buffer clear of the source, the first `n` tiles of the buffer hold the decoded tiles of the source,
and the source is as it was (R191). -/
theorem decodeTilesInto_sameTiles {r : OperandRegs} {scratch : Word}
    (hsrc : r.srcAddr.toNat + 131072 * r.tileCount.toNat ≤ 2 ^ 32)
    (hscratch : scratch.toNat + 1048576 * r.tileCount.toNat ≤ 2 ^ 32)
    (hclear : (sourceRange .decodeCompose r).overlaps ⟨scratch.toNat, 1048576 * r.tileCount.toNat⟩ = false)
    (s : State) {n : Nat} (hn : n ≤ r.tileCount.toNat) :
    ∃ mid, decodeTilesInto r scratch n s = .next mid ∧
      Memory.SameInside (sourceRange .decodeCompose r) s.mem mid.mem ∧
      SameTiles n (decodedTile s.mem r.srcAddr.toNat) (storedTile mid.mem scratch.toNat) := by
  induction n with
  | zero => exact ⟨s, rfl, fun _ _ => rfl, fun _ _ h => absurd h (Nat.not_lt_zero _)⟩
  | succ n ih =>
    obtain ⟨t, ht, hsame, htiles⟩ := ih (by omega)
    refine ⟨_, decodeTilesInto_succ ht (by omega) (by omega), ?_⟩
    have hframe := State.complete_sameOutside t ⟨scratch.toNat + 1048576 * n, 1048576⟩
    constructor
    · refine hsame.trans ((hframe _ _ _).sameInside ?_)
      rw [ByteRange.overlaps_eq_false_iff] at hclear ⊢
      dsimp only at hclear ⊢
      omega
    · intro i p hi hp
      rcases Nat.lt_succ_iff_lt_or_eq.mp hi with hi | rfl
      · have hearlier := fun f => (hframe f 512 512).sameInside (r := ⟨scratch.toNat, 1048576 * n⟩)
          (ByteRange.overlaps_eq_false_iff.mpr (.inr (Nat.le_refl _)))
        exact (storedTile_sameTiles (hearlier _) i p hi hp).trans (htiles i p hi hp)
      · exact (State.complete_tile_pixelAt t _ t.mem _ _ 512 512 hp).trans
          (decodedTile_sameTiles hsame i p (by omega) hp)

/-- Settles O38: the scratch buffer ends up holding the decoded tiles of the source, so the two images agree. -/
theorem decodeComposeEqualsDecodeThenCompose : Obligations.DecodeComposeEqualsDecodeThenCompose := by
  intro s r scratch order swap hcheck hscratch hclear
  obtain ⟨hsrcSpace, hdstSpace⟩ := inSpace_of_checkOperands hcheck
  have hsrc : r.srcAddr.toNat + 131072 * r.tileCount.toNat ≤ 2 ^ 32 := ByteRange.inSpace_iff.mp hsrcSpace
  have hdst : r.dstAddr.toNat + r.width.toNat * r.height.toNat * 4 ≤ 2 ^ 32 := ByteRange.inSpace_iff.mp hdstSpace
  obtain ⟨mid, hmid, -, htiles⟩ := decodeTilesInto_sameTiles hsrc hscratch hclear s (Nat.le_refl _)
  have hdirect := execDecodeCompose_completes (sn := ⟨⟨.decodeCompose, order, swap⟩, r⟩)
    (s := { s with engine := .busy ⟨⟨.decodeCompose, order, swap⟩, r⟩ }) rfl order swap hsrc hdst
  have hcompose := execCompose_completes (sn := ⟨⟨.compose, order, swap⟩, { r with srcAddr := scratch }⟩)
    (s := { mid with engine := .busy ⟨⟨.compose, order, swap⟩, { r with srcAddr := scratch }⟩ })
    rfl order swap hscratch hdst
  exact ⟨_, mid, _, hdirect, hmid, hcompose,
    State.complete_sameInside (imageByte_congr_of_check hcheck (by simp) htiles order swap), rfl, rfl⟩

end Sys2Proof.Machine
end

section
/-! PROOFS. The host's accesses to the registers, operation by operation: what a read returns (R201), what the writes to
the read-only and reserved offsets, to CTRL, STATUS and the operand registers and to CMD do (R202 to R208, R272), and
the bus error of an ill-formed transaction (R200). -/

namespace Sys2Proof.Machine

/-! ### Reads -/

theorem aligned_iff {o : BitVec 8} : aligned o = true ↔ o.toNat % 4 = 0 := beq_iff_eq

/-- Two fields side by side, in numbers. -/
theorem toNat_append_eq_mul_add {m n : Nat} (x : BitVec m) (y : BitVec n) :
    (x ++ y).toNat = x.toNat * 2 ^ n + y.toNat := by
  rw [BitVec.toNat_append, ← Nat.shiftLeft_add_eq_or_of_lt y.isLt, Nat.shiftLeft_eq]

/-- STATUS as a number: each field at its place (R28). -/
theorem State.statusWord_eq (s : State) :
    s.statusWord = BitVec.ofNat 32 (s.busy.toNat + 2 * s.done.toNat + 4 * s.err.toNat + 8 * s.ignwr.toNat
      + 256 * s.errcode.toNat + 4096 * s.errdetail.toNat) := by
  have hfields : s.statusWord.toNat = s.busy.toNat + 2 * s.done.toNat + 4 * s.err.toNat + 8 * s.ignwr.toNat
      + 256 * s.errcode.toNat + 4096 * s.errdetail.toNat := by
    simp only [State.statusWord, toNat_append_eq_mul_add, BitVec.toNat_ofBool, BitVec.toNat_ofNat]
    omega
  rw [← hfields, BitVec.ofNat_toNat, BitVec.setWidth_eq]

/-- CTRL holds IRQ_EN alone (R23). -/
theorem State.ctrlWord_eq (s : State) : s.ctrlWord = if s.irqEn then 1 else 0 := by
  rw [State.ctrlWord]
  cases s.irqEn <;> rfl

/-- The reserved offsets read 0 (R42). -/
theorem State.readReg_reserved (s : State) {o : BitVec 8} (ho : 0x38 ≤ o.toNat) : s.readReg o = 0 := by
  unfold State.readReg
  split <;> try omega
  rfl

/-- A read at an aligned offset answers the register's word and changes nothing else (R201). -/
theorem exec_rd_of_aligned (s : State) {o : BitVec 8} (ho : aligned o = true) :
    exec (.rd o) s = .next { s with resp := .data (s.readReg o) } := by
  rw [exec, execRd, if_pos ho]
  rfl

/-- While BUSY the operand registers are the snapshot's (R40). -/
theorem State.Inv.regs_of_snapshot {s : State} (h : s.Inv) {sn : Snapshot} (hs : s.snapshot = some sn) :
    s.regs = sn.regs := by
  cases he : s.engine with
  | idle => simp [State.snapshot, he] at hs
  | busy sn' =>
    obtain rfl : sn' = sn := by simpa [State.snapshot, he] using hs
    exact (h.snapshot sn' he).1.symm

/-- Settles O19: an aligned read answers readReg, which is a field of the state at every offset but those of CTRL and
STATUS, and 0 at the reserved ones. -/
theorem registerReads : Obligations.RegisterReads := by
  intro s
  refine ⟨rfl, ?_, ?_, rfl, rfl, rfl, rfl, rfl, rfl, rfl, rfl, rfl, rfl, rfl, fun o ho ha => ?_,
    fun h sn hs => h.regs_of_snapshot hs⟩
  · rw [← s.ctrlWord_eq]
    rfl
  · rw [← s.statusWord_eq]
    rfl
  · rw [exec_rd_of_aligned s (aligned_iff.mpr ha), s.readReg_reserved ho]

/-! ### Ill-formed accesses and writes without effect -/

/-- The model's RD and WR.RESERVED answer a misaligned offset with a bus error (log entry 14). -/
theorem exec_misaligned (s : State) {o : BitVec 8} (ho : o.toNat % 4 ≠ 0) (v : Word) :
    exec (.rd o) s = .next s.busError ∧ exec (.wrReserved o v) s = .next s.busError := by
  have ha : ¬ aligned o = true := aligned_iff.not.mpr ho
  exact ⟨by rw [exec, execRd, if_neg ha], by rw [exec, execWrReserved, if_neg ha]⟩

/-- WR.RESERVED at an aligned offset changes nothing (R202). -/
theorem exec_wrReserved_of_aligned (s : State) {o : BitVec 8} (ho : o.toNat % 4 = 0) (v : Word) :
    exec (.wrReserved o v) s = .next { s with resp := .done } := by
  rw [exec, execWrReserved, if_pos (aligned_iff.mpr ho)]
  rfl

/-- Settles O20, by the alignment of the offset. -/
theorem illFormedOperandsChangeNothing : Obligations.IllFormedOperandsChangeNothing := fun s _ v =>
  ⟨fun ho => exec_misaligned s ho v, fun ho _ => ⟨.done, exec_wrReserved_of_aligned s ho v⟩⟩

/-- Settles O22: each of these writes is acknowledged and no more. -/
theorem readOnlyWritesChangeNothing : Obligations.ReadOnlyWritesChangeNothing := fun s v =>
  ⟨⟨.done, rfl⟩, ⟨.done, rfl⟩, ⟨.done, rfl⟩, fun _ _ ho => ⟨.done, exec_wrReserved_of_aligned s ho v⟩⟩

/-- A transaction that decodes to nothing is a bus error (R200). -/
theorem busTurn_outcome_of_error {tr : Transaction} {e : DecodeError} (h : decodeTransaction tr = .error e)
    (s : State) : (busTurn tr s).outcome = .next { s with resp := .busError } := by
  simp only [busTurn, h]
  rfl

/-- Settles O11: an ill-formed transaction decodes to nothing. -/
theorem illFormedTransactionsChangeNothing : Obligations.IllFormedTransactionsChangeNothing := by
  intro s t ht
  obtain ⟨e, he⟩ := (transactionsSelectTheirOperation t).2 ht
  have hturn : ∀ u : State, (hostTurn (.bus t) u).outcome = .next { u with resp := .busError } :=
    busTurn_outcome_of_error he
  refine ⟨hturn s, fun rest hf hidle hhost => ?_⟩
  rw [step_eq_outcome, turn_idle hf hidle hhost, hturn]

/-! ### CTRL and STATUS -/

/-- With bit 31 set a write to CTRL is a soft reset (R203, R272). -/
theorem execWrCtrl_of_bit31_set (s : State) {v : Word} (h : v.getLsbD 31 = true) :
    exec (.wrCtrl v) s = .next (s.softReset.respond .done) := by
  rw [exec, execWrCtrl, if_pos h]

theorem State.AtReset.irq {s : State} (h : s.AtReset) : s.irq = false := by simp [State.irq, h.done]

/-- Settles O17: in IDLE a soft reset aborts nothing, so it takes no draw and writes no byte. -/
theorem softResetInIdle : Obligations.SoftResetInIdle := by
  intro s v hs hv
  have hreset := s.coreReset_atReset.respond .done
  refine ⟨s.coreReset.respond .done, ?_, hreset, hreset.irq, rfl, rfl, rfl, rfl⟩
  rw [execWrCtrl_of_bit31_set s hv, State.softReset_idle hs]

/-- Settles O24, flag by flag. -/
theorem statusWriteClears : Obligations.StatusWriteClears := by
  intro s v
  refine ⟨.done, ?_⟩
  rw [exec, execWrStatus, State.writeStatus_eq]
  rfl

/-! ### The operand registers and CMD -/

/-- The change of the operand registers that an instruction asks for: each of the eight WR rows of R205 puts its value in
its own register, and no other instruction asks for any. -/
def putOperand : Instr → OperandRegs → OperandRegs
  | .wrSrcAddr v, r => { r with srcAddr := v }
  | .wrSrcLen v, r => { r with srcLen := v }
  | .wrDstAddr v, r => { r with dstAddr := v }
  | .wrDstLen v, r => { r with dstLen := v }
  | .wrWidth v, r => { r with width := v }
  | .wrHeight v, r => { r with height := v }
  | .wrTileCount v, r => { r with tileCount := v }
  | .wrTileIndex v, r => { r with tileIndex := v }
  | _, r => r

/-- A write to an operand register changes the registers in IDLE and sets IGNWR in BUSY (R205). -/
theorem State.writeOperand_eq (s : State) (put : OperandRegs → OperandRegs) :
    s.writeOperand put =
      { s with ignwr := s.ignwr || s.busy, regs := if s.busy then s.regs else put s.regs } := by
  unfold State.writeOperand
  cases s.busy <;> simp [State.ignoreWrite]

/-- The answer to a write to an operand register, by the phase (R205). -/
theorem exists_answer_of_writeOperand {s : State} {i : Instr}
    (h : exec i s = .next ((s.writeOperand (putOperand i)).respond .done)) :
    ∃ r, exec i s = .next
      (if s.busy then { s with ignwr := true, resp := r } else { s with regs := putOperand i s.regs, resp := r }) := by
  refine ⟨.done, h.trans ?_⟩
  unfold State.writeOperand
  split <;> rfl

/-- Settles O25: each of the eight is a write to its own operand register. -/
theorem operandRegisterWrites : Obligations.OperandRegisterWrites := fun _ _ =>
  ⟨exists_answer_of_writeOperand rfl, exists_answer_of_writeOperand rfl, exists_answer_of_writeOperand rfl,
    exists_answer_of_writeOperand rfl, exists_answer_of_writeOperand rfl, exists_answer_of_writeOperand rfl,
    exists_answer_of_writeOperand rfl, exists_answer_of_writeOperand rfl⟩

/-- The opcode map read backwards: the field of each command (R92). -/
theorem op_iff_of_opOfField {f : BitVec 4} {op : Op} (h : opOfField f = some op) :
    (op = .decodeTile ↔ f.toNat = 1) ∧ (op = .compose ↔ f.toNat = 2) ∧ (op = .decodeCompose ↔ f.toNat = 3) := by
  rcases opOfField_some h with ⟨rfl, rfl⟩ | ⟨rfl, rfl⟩ | ⟨rfl, rfl⟩ <;> decide

/-- The fields of a legal command word, in numbers; for DECODE_TILE the order is RGBA and the swap false (R90, R208). -/
theorem decodeCommandWord_fields {w : Word} {c : Command} (h : decodeCommandWord w = .ok c) :
    (c.op = .decodeTile ↔ w.toNat % 16 = 1) ∧ (c.op = .compose ↔ w.toNat % 16 = 2) ∧
      (c.op = .decodeCompose ↔ w.toNat % 16 = 3) ∧ (c.order = .bgra ↔ w.getLsbD 4 = true) ∧
      c.swap = w.getLsbD 5 ∧ (c.op = .decodeTile → c.order = .rgba ∧ c.swap = false) := by
  obtain ⟨hop, -, horder, hswap⟩ := decodeCommandWord_ok h
  obtain ⟨h1, h2, h3⟩ := op_iff_of_opOfField hop
  rw [opcodeField_toNat] at h1 h2 h3
  have hwf := (encodeCommandWord_of_decode h).2
  refine ⟨h1, h2, h3, ?_, hswap, fun htile => ?_⟩
  · rw [horder, chordField]
    cases w.getLsbD 4 <;> decide
  · simpa [Command.wellFormed, htile] using hwf

/-- Settles O31: a passed check is a legal word with its fields, and the write is the acceptance. -/
theorem acceptanceLatchesTheSnapshot : Obligations.AcceptanceLatchesTheSnapshot := by
  intro s v c hs hc
  refine ⟨decodeCommandWord_fields (check_ok hc).1, (s.accept c).respond .done, ?_, rfl, rfl, ?_, rfl⟩
  · simp [exec, execWrCmd, State.busy_of_idle hs, State.issue_of_ok hc]
  · simp [State.irq]

end Sys2Proof.Machine
end

section
/-! PROOFS. Rules over every bus operation: its flag effects (R214), its frame (R201 to R206), and the steps of a BUSY
core, which end BUSY once the host is done (R209 to R212, R281). -/

namespace Sys2Proof.Machine

/-! ### The flags (R214) -/

@[simp] theorem State.flags_respond (s : State) (r : HostResponse) : (s.respond r).flags = s.flags := rfl

theorem State.AtReset.flags {s : State} (h : s.AtReset) : s.flags = ⟨false, false, false, false, 0, 0, 0, 0⟩ := by
  simp [State.flags, h.busy, h.done, h.err, h.ignwr, h.errcode, h.errdetail, h.outWidth, h.outHeight]

theorem State.flags_writeOperand (s : State) (put : OperandRegs → OperandRegs) :
    (s.writeOperand put).flags = { s.flags with ignwr := s.ignwr || s.busy } := by
  rw [State.writeOperand_eq]
  rfl

/-- The flags after the engine's step: a completion (R211). -/
theorem State.flags_of_perform {s t : State} {op : Op} {r : OperandRegs} {f : Nat → Byte} {w h : Word}
    (hx : s.perform op r f w h = .next t) :
    t.flags = { s.flags with busy := false, done := true, outWidth := w, outHeight := h } := by
  obtain ⟨-, rfl⟩ := State.perform_eq_next.mp hx
  rfl

/-- The flags after the decision at a CMD write in IDLE: a rejection or an acceptance (R208, R236). -/
theorem State.flags_issue {s : State} (hs : s.busy = false) (v : Word) :
    (s.issue v).flags = match check v s.regs with
      | .error e => ⟨false, true, true, s.ignwr, e.code, e.detail, 0, 0⟩
      | .ok _ => ⟨true, false, false, s.ignwr, 0, 0, 0, 0⟩ := by
  rcases s.issue_cases v with ⟨e, hc, heq⟩ | ⟨c, hc, heq⟩ <;> rw [heq, hc]
  · simp [State.flags, hs]
  · rfl

/-- Settles O60, operation by operation. -/
theorem flagEffects : Obligations.FlagEffects := by
  intro s t i hx
  cases i with
  | decodeTile =>
    intro hs
    obtain ⟨sn, hsn⟩ := State.exists_snapshot hs
    exact State.flags_of_perform ((execDecodeTile_busy hsn).symm.trans hx)
  | compose order swap =>
    exact fun sn hsn => State.flags_of_perform ((execCompose_busy hsn order swap).symm.trans hx)
  | decodeCompose order swap =>
    exact fun sn hsn => State.flags_of_perform ((execDecodeCompose_busy hsn order swap).symm.trans hx)
  | rd o | wrReserved o _ =>
    injection hx with hx
    subst hx
    show State.flags (if aligned o then _ else _) = _
    split <;> rfl
  | wrId _ | wrOutWidth _ | wrOutHeight _ =>
    injection hx with hx
    subst hx
    rfl
  | wrCtrl v =>
    injection hx with hx
    subst hx
    show State.flags _ = if v.getLsbD 31 then _ else _
    split
    · exact s.softReset_keeps.1.flags
    · rfl
  | wrStatus v =>
    injection hx with hx
    subst hx
    show State.flags _ = _
    rw [State.flags_respond, State.writeStatus_eq]
    rfl
  | wrCmd v =>
    injection hx with hx
    subst hx
    show State.flags _ = if s.busy then _ else _
    split
    · rfl
    · next hs => exact State.flags_issue (by simpa using hs) v
  | wrSrcAddr _ | wrSrcLen _ | wrDstAddr _ | wrDstLen _ | wrWidth _ | wrHeight _ | wrTileCount _ | wrTileIndex _ =>
    injection hx with hx
    subst hx
    exact s.flags_writeOperand _

/-! ### What the bus operations leave unchanged -/

/-- An instruction that is not the write to a register leaves that register as it is. -/
theorem putOperand_frame (i : Instr) (r : OperandRegs) :
    ((∀ v, i ≠ .wrSrcAddr v) → (putOperand i r).srcAddr = r.srcAddr) ∧
    ((∀ v, i ≠ .wrSrcLen v) → (putOperand i r).srcLen = r.srcLen) ∧
    ((∀ v, i ≠ .wrDstAddr v) → (putOperand i r).dstAddr = r.dstAddr) ∧
    ((∀ v, i ≠ .wrDstLen v) → (putOperand i r).dstLen = r.dstLen) ∧
    ((∀ v, i ≠ .wrWidth v) → (putOperand i r).width = r.width) ∧
    ((∀ v, i ≠ .wrHeight v) → (putOperand i r).height = r.height) ∧
    ((∀ v, i ≠ .wrTileCount v) → (putOperand i r).tileCount = r.tileCount) ∧
    ((∀ v, i ≠ .wrTileIndex v) → (putOperand i r).tileIndex = r.tileIndex) := by
  cases i <;> simp [putOperand]

theorem State.softReset_host (s : State) : s.softReset.host = s.host := by
  obtain ⟨-, -, hhost, -⟩ := s.softReset_keeps
  exact hhost

/-- An instruction keeps the host's list (log entry 1). -/
theorem exec_host {s t : State} {i : Instr} (h : exec i s = .next t) : t.host = s.host := by
  rcases exec_cases h with ⟨c, rfl⟩ | ⟨v, -, rfl⟩ | ⟨v, -, rfl⟩ | ⟨v, -, rfl⟩ | ⟨put, rfl⟩ | ⟨r, rfl⟩
  · exact (execCommand_frame h).1.host
  · split
    · exact s.softReset_host
    · rfl
  · rw [State.writeStatus_eq]
    rfl
  · split
    · rfl
    · exact (s.issue_sameSurroundings v .done).host
  · rw [State.writeOperand_eq]
    rfl
  · rfl

/-- Every bus operation answers a next state (R201 to R206). -/
theorem busop_answers {i : Instr} (hi : ∀ w, encode i ≠ .command w) (s : State) : ∃ t, exec i s = .next t := by
  cases i with
  | decodeTile | compose _ _ | decodeCompose _ _ => exact absurd rfl (hi _)
  | rd _ | wrId _ | wrCtrl _ | wrStatus _ | wrCmd _ | wrSrcAddr _ | wrSrcLen _ | wrDstAddr _ | wrDstLen _ | wrWidth _
  | wrHeight _ | wrTileCount _ | wrTileIndex _ | wrOutWidth _ | wrOutHeight _ | wrReserved _ _ => exact ⟨_, rfl⟩

section busop
variable {s t : State} {i : Instr} (hi : ∀ w, encode i ≠ .command w) (hx : exec i s = .next t)
  (hreset : ∀ v, i = .wrCtrl v → v.getLsbD 31 = false)
include hi hx hreset

/-- But for a soft reset, a bus operation changes no byte of memory and takes no draw; IRQ_EN changes by WR.CTRL only and
the phase by WR.CMD only (R201 to R206). -/
theorem busop_keeps :
    t.mem = s.mem ∧ t.draws = s.draws ∧ ((∀ v, i ≠ .wrCtrl v) → t.irqEn = s.irqEn) ∧
      ((∀ v, i ≠ .wrCmd v) → t.engine = s.engine) := by
  rcases exec_cases hx with ⟨c, rfl⟩ | ⟨v, rfl, rfl⟩ | ⟨v, -, rfl⟩ | ⟨v, rfl, rfl⟩ | ⟨put, rfl⟩ | ⟨r, rfl⟩
  · exact (instr_not_busop hi).elim
  · rw [hreset v rfl]
    exact ⟨rfl, rfl, fun hne => absurd rfl (hne v), fun _ => rfl⟩
  · rw [State.writeStatus_eq]
    exact ⟨rfl, rfl, fun _ => rfl, fun _ => rfl⟩
  · have hsame := s.issue_sameSurroundings v .done
    split
    · exact ⟨rfl, rfl, fun _ => rfl, fun _ => rfl⟩
    · exact ⟨s.issue_mem v, hsame.draws, fun _ => hsame.irqEn, fun hne => absurd rfl (hne v)⟩
  · rw [State.writeOperand_eq]
    exact ⟨rfl, rfl, fun _ => rfl, fun _ => rfl⟩
  · exact ⟨rfl, rfl, fun _ => rfl, fun _ => rfl⟩

/-- But for a soft reset, a bus operation changes the operand registers in IDLE only, by the write that it is (R205). -/
theorem busop_regs : t.regs = if s.busy then s.regs else putOperand i s.regs := by
  have hsame : t.regs = s.regs → putOperand i s.regs = s.regs → t.regs = if s.busy then s.regs else putOperand i s.regs :=
    fun ht hput => by rw [ht, hput, ite_self]
  cases i with
  | decodeTile | compose _ _ | decodeCompose _ _ => exact absurd rfl (hi _)
  | wrSrcAddr _ | wrSrcLen _ | wrDstAddr _ | wrDstLen _ | wrWidth _ | wrHeight _ | wrTileCount _ | wrTileIndex _ =>
    injection hx with hx
    rw [← hx, State.writeOperand_eq]
    rfl
  | wrCtrl v =>
    rw [execWrCtrl_of_bit31_clear s (hreset v rfl)] at hx
    injection hx with hx
    exact hsame (by rw [← hx]) rfl
  | wrStatus v =>
    injection hx with hx
    refine hsame ?_ rfl
    rw [← hx, State.writeStatus_eq]
    rfl
  | wrCmd v =>
    injection hx with hx
    refine hsame ?_ rfl
    rw [← hx]
    split
    · rfl
    · exact (s.issue_sameSurroundings v .done).regs
  | rd _ | wrReserved _ _ =>
    injection hx with hx
    refine hsame ?_ rfl
    rw [← hx]
    split <;> rfl
  | wrId _ | wrOutWidth _ | wrOutHeight _ =>
    injection hx with hx
    exact hsame (by rw [← hx]; rfl) rfl

end busop

/-- Settles O59: memory, CTRL and the phase by who acts, and the operand registers by the write that the operation is. -/
theorem busOperationFrame : Obligations.BusOperationFrame := by
  intro s t i hi hx
  refine ⟨exec_faults hx, exec_host hx, fun hreset => ?_⟩
  obtain ⟨hmem, hdraws, hirq, hengine⟩ := busop_keeps hi hx hreset
  have hregs : t.regs = s.regs ∨ t.regs = putOperand i s.regs := by
    rw [busop_regs hi hx hreset]
    split
    · exact .inl rfl
    · exact .inr rfl
  refine ⟨fun a => by rw [hmem], hdraws, hirq, ?_⟩
  rcases hregs with hregs | hregs <;> rw [hregs]
  · exact ⟨fun _ => rfl, fun _ => rfl, fun _ => rfl, fun _ => rfl, fun _ => rfl, fun _ => rfl, fun _ => rfl,
      fun _ => rfl, hengine⟩
  · obtain ⟨h1, h2, h3, h4, h5, h6, h7, h8⟩ := putOperand_frame i s.regs
    exact ⟨h1, h2, h3, h4, h5, h6, h7, h8, hengine⟩

/-! ### The steps of a BUSY core -/

/-- Settles O8: with nothing left for the host the turn is the engine's. -/
theorem stepRunsTheEnginesCommand : Obligations.StepRunsTheEnginesCommand := by
  intro s sn hf he hh
  have hturn : turn s = engineTurn sn s := by
    unfold turn
    rw [hf, he, hh]
  rw [step_eq_outcome, hturn]
  rfl

/-- Settles O9: the free value of the draw says whose turn it is. -/
theorem busyStepIsEitherAgents : Obligations.BusyStepIsEitherAgents := by
  intro s sn a rest hf he hh
  have hturn : turn s = if Config.engineMoves s.draws then engineTurn sn { s with draws := s.draws + 1 }
      else hostTurn a { s with host := rest, draws := s.draws + 1 } := by
    unfold turn
    rw [hf, he, hh]
  rw [step_eq_outcome, hturn]
  split
  · exact .inl rfl
  · exact .inr rfl

/-- The host's action keeps the list of those still to come (log entry 1). -/
theorem hostTurn_host {s t : State} {a : HostAction} (ht : (hostTurn a s).outcome = .next t) : t.host = s.host := by
  rcases hostTurn_outcome ht with ⟨tr, i, -, -, hx⟩ | ⟨r, rfl⟩ | ⟨addr, -, rfl⟩ | ⟨addr, v, -, rfl⟩ | ⟨-, rfl⟩
  · exact exec_host hx
  · rfl
  · rw [hostRead_eq]
  · rw [hostWrite_eq]
  · rfl

theorem busTurn_answers (tr : Transaction) (s : State) : ∃ t, (busTurn tr s).outcome = .next t := by
  cases h : decodeTransaction tr with
  | ok i =>
    rw [busTurn_outcome_of_ok h]
    exact busop_answers (decodeTransaction_not_command h) s
  | error e => exact ⟨_, busTurn_outcome_of_error h s⟩

/-- Every action of the host answers a next state (R200, R212, R213, R270). -/
theorem hostTurn_answers (a : HostAction) (s : State) : ∃ t, (hostTurn a s).outcome = .next t := by
  cases ha : a.transaction with
  | some tr =>
    rw [hostTurn_of_transaction ha]
    exact busTurn_answers tr s
  | none =>
    cases a with
    | bus tr => cases ha
    | busAt b =>
      have hb : b.transaction = none := ha
      exact ⟨s.respond .none, by simp only [hostTurn, hb, Turn.outcome]⟩
    | memRead _ | memWrite _ _ | hardReset => exact ⟨_, rfl⟩

/-- The engine's step of a running command answers a state in IDLE (R211, R237). -/
theorem engine_answers {s : State} {sn : Snapshot} (h : s.Inv) (hs : s.engine = .busy sn) :
    ∃ t, exec sn.cmd.instr s = .next t ∧ t.busy = false := by
  obtain ⟨-, -, hc⟩ := h.snapshot sn hs
  obtain ⟨hsrc, hdst⟩ := inSpace_of_checkOperands hc
  obtain ⟨f, w, h', hx, -⟩ := execCommand_busy hs sn.cmd
  exact ⟨_, hx.trans (State.perform_of_inSpace f w h' hsrc hdst), rfl⟩

/-- Within `n` steps BUSY has ended, or the run has for a broken duty (R78, R210). -/
def State.EndsWithin (n : Nat) (s : State) : Prop :=
  ∃ k, k ≤ n ∧ (core.run k s = .fault .hostRace ∨ ∃ t, core.run k s = .next t ∧ t.busy = false)

theorem State.EndsWithin.of_not_busy {s : State} (n : Nat) (h : s.busy = false) : s.EndsWithin n :=
  ⟨0, n.zero_le, .inr ⟨s, rfl, h⟩⟩

theorem State.EndsWithin.of_fault {s : State} (n : Nat) (h : step s = .fault .hostRace) : s.EndsWithin (n + 1) :=
  ⟨1, Nat.le_add_left 1 n, .inl (core_run_fault 0 h)⟩

/-- Only a BUSY core with no model fault has anything left to do. -/
theorem State.EndsWithin.of_busy {s : State} {n : Nat}
    (h : s.faults = [] → ∀ sn, s.engine = .busy sn → s.EndsWithin (n + 1)) : s.EndsWithin (n + 1) := by
  cases hf : s.faults with
  | cons f fs => exact .of_fault _ (step_of_fault hf)
  | nil =>
    cases he : s.engine with
    | idle => exact .of_not_busy _ (State.busy_of_idle he)
    | busy sn => exact h hf sn he

/-- One step more, where the first step answers a next state. -/
theorem State.EndsWithin.of_step {s t : State} {n : Nat} (hst : step s = .next t) (ht : t.EndsWithin n) :
    s.EndsWithin (n + 1) := by
  obtain ⟨k, hk, hrun⟩ := ht
  exact ⟨k + 1, Nat.succ_le_succ hk, by rwa [core_run_next k hst]⟩

/-- By induction on the host's list: with nothing left the engine completes, and otherwise the engine completes or the host
takes an action off the list. -/
theorem endsWithin_host_length (host : List HostAction) :
    ∀ s : State, s.host = host → s.Inv → s.EndsWithin (host.length + 1) := by
  induction host with
  | nil =>
    intro s hh hinv
    refine .of_busy fun hf sn he => ?_
    obtain ⟨t, hx, ht⟩ := engine_answers hinv he
    exact .of_step ((stepRunsTheEnginesCommand s sn hf he hh).trans hx) (.of_not_busy _ ht)
  | cons a rest ih =>
    intro s hh hinv
    refine .of_busy fun hf sn he => ?_
    rcases busyStepIsEitherAgents s sn a rest hf he hh with hstep | hstep
    · have hinv' : State.Inv { s with draws := s.draws + 1 } := hinv.of_same_status hinv.memory hinv.faultSet rfl
      obtain ⟨t, hx, ht⟩ := engine_answers hinv' he
      exact .of_step (hstep.trans hx) (.of_not_busy _ ht)
    · obtain ⟨t, hx⟩ := hostTurn_answers a { s with host := rest, draws := s.draws + 1 }
      have hst : step s = .next t := hstep.trans hx
      exact .of_step hst (ih t (hostTurn_host hx) (stepKeepsInvariant s t hinv hst))

/-- Settles O57, by induction on the host's actions still to come. -/
theorem busyEndsOnceTheHostIsDone : Obligations.BusyEndsOnceTheHostIsDone := fun s hinv _ =>
  endsWithin_host_length s.host s rfl hinv

end Sys2Proof.Machine
end

section
/-! PROOFS. The exceptions: the acceptance check of R238 test by test, the codes of its errors and what a rejection does
(R230, R236), the completion of every accepted command (R237, R242) and the interrupt output (R244). -/

namespace Sys2Proof.Machine

/-! ### The acceptance check -/

/-- The answer of the check to a legal word of the command `c`: the first operand test that fails, or `c`. -/
def verdict (c : Command) : Option CoreError → Except CoreError Command
  | some e => .error e
  | none => .ok c

/-- On a legal word the check is that of the operands (R238). -/
theorem check_of_legal {v : Word} {op : Op} {order : ChannelOrder} {swap : Bool}
    (h : decodeCommandWord v = .ok ⟨op, order, swap⟩) (r : OperandRegs) :
    check v r = verdict ⟨op, order, swap⟩ (checkOperands op r) := by
  simp only [check, h]
  cases checkOperands op r <;> rfl

/-- The tests on the two ranges, in their order, on the command's numbers (R66, R67, R232 to R235). -/
theorem verdict_checkRanges (c : Command) {op : Op} {r : OperandRegs} {start size stop need : Nat}
    (hsource : sourceRange op r = ⟨start, size⟩) (hstop : sourceEndOffset op r = stop)
    (hneed : outputBytes op r = need) :
    verdict c (checkRanges op r) =
      if stop > r.srcLen.toNat then .error .malformedSource
      else if r.srcAddr.toNat + stop > 2 ^ 32 then .error .rangeSource
      else if need > r.dstLen.toNat then .error .allocationFailure
      else if r.dstAddr.toNat + need > 2 ^ 32 then .error .rangeDestination
      else if start < r.dstAddr.toNat + need ∧ r.dstAddr.toNat < start + size then .error .overlap
      else .ok c := by
  simp only [checkRanges, destRange, hsource, hstop, hneed, apply_ite (verdict c), ByteRange.overlaps_iff]
  rfl

theorem geometryTiles_eq (r : OperandRegs) :
    geometryTiles r = r.width.toNat / 512 * (r.height.toNat / 512) := rfl

/-- The geometry tests, for the two commands that compose, come before those on the ranges (R233, R238). -/
theorem verdict_checkOperands (c : Command) (op : Op) {r : OperandRegs} {count : Nat}
    (hcount : geometryTiles r = count) :
    verdict c (checkOperands op r) =
      if op ≠ .decodeTile ∧ ¬ (r.width.toNat % 512 = 0 ∧ 512 ≤ r.width.toNat ∧ r.width.toNat ≤ 8192) then
        .error .malformedWidth
      else if op ≠ .decodeTile ∧ ¬ (r.height.toNat % 512 = 0 ∧ 512 ≤ r.height.toNat ∧ r.height.toNat ≤ 8192) then
        .error .malformedHeight
      else if op ≠ .decodeTile ∧ r.tileCount.toNat ≠ count then .error .malformedCount
      else verdict c (checkRanges op r) := by
  have hor : checkOperands op r = (checkGeometry op r).or (checkRanges op r) := by
    unfold checkOperands
    cases checkGeometry op r <;> rfl
  by_cases hop : op = .decodeTile
  · subst hop
    rfl
  · simp only [hor, checkGeometry, hop, hcount, ne_eq, not_false_eq_true, true_and, if_false, ← legalDim_iff,
      Bool.not_eq_true', Bool.not_eq_true, apply_ite (Option.or · (checkRanges op r)), apply_ite (verdict c)]
    rfl

/-! ### Legal command words -/

/-- A word with a legal opcode and no reserved bit decodes to the command of its fields, in numbers (R90, R93). -/
theorem decodeCommandWord_of_fields {w : Word} {op : Op} (hop : opOfField (opcodeField w) = some op)
    (hr : reservedField op w = 0) :
    decodeCommandWord w = .ok
      { op := op
        order := if w.toNat / 16 % 2 = 1 then .bgra else .rgba
        swap := decide (w.toNat / 32 % 2 = 1) } := by
  simp only [decodeCommandWord, hop, if_pos hr, chordField, swapField, BitVec.getLsbD,
    Nat.testBit_eq_decide_div_mod_eq, decide_eq_true_eq, Nat.reducePow]

theorem ushiftRight_eq_zero_of_div {w : Word} {k : Nat} (h : w.toNat / 2 ^ k = 0) : w >>> k = 0 :=
  BitVec.eq_of_toNat_eq (by rw [BitVec.toNat_ushiftRight, Nat.shiftRight_eq_div_pow, h]; rfl)

/-- The opcode map on numbers (R92). -/
theorem opOfField_of_toNat : ∀ f : BitVec 4,
    (f.toNat = 1 → opOfField f = some .decodeTile) ∧ (f.toNat = 2 → opOfField f = some .compose) ∧
      (f.toNat = 3 → opOfField f = some .decodeCompose) := by decide

/-- Settles O27: a reserved opcode and a reserved bit end the check; for each of the three legal opcodes the tests on the
operands follow, with the numbers of that command, and those on the geometry for the two that compose only. -/
theorem checkOrder : Obligations.CheckOrder := by
  intro v r
  obtain ⟨htile, hcompose, hdecode⟩ := opOfField_of_toNat (opcodeField v)
  rw [opcodeField_toNat] at htile hcompose hdecode
  by_cases hopcode : v.toNat % 16 ∉ [1, 2, 3]
  · rw [check_of_illegal (decodeCommandWord_reservedOpcode hopcode)]
    exact (if_pos (by simpa using hopcode)).symm
  by_cases hbits : (v.toNat % 16 = 1 ∧ v.toNat / 16 ≠ 0) ∨ (v.toNat % 16 ∈ [2, 3] ∧ v.toNat / 64 ≠ 0)
  · rw [check_of_illegal (decodeCommandWord_reservedBits_of_toNat hbits)]
    have hop : (v.toNat % 16 = 1 ∧ v.toNat / 16 ≠ 0) ∨ (v.toNat % 16 = 2 ∧ v.toNat / 64 ≠ 0) ∨
        (v.toNat % 16 = 3 ∧ v.toNat / 64 ≠ 0) := by simpa [or_and_right] using hbits
    rcases hop with ⟨hop, hr⟩ | ⟨hop, hr⟩ | ⟨hop, hr⟩ <;> simp [hop, hr, illegalWordError]
  have hop : v.toNat % 16 = 1 ∨ v.toNat % 16 = 2 ∨ v.toNat % 16 = 3 := by simpa using not_not.mp hopcode
  rcases hop with hop | hop | hop
  · have hr : v.toNat / 16 = 0 := by_contra fun hr => hbits (.inl ⟨hop, hr⟩)
    rw [check_of_legal (decodeCommandWord_of_fields (htile hop) (ushiftRight_eq_zero_of_div hr)),
      verdict_checkOperands _ _ (geometryTiles_eq r), verdict_checkRanges _ (sourceRange_decodeTile r)
        (stop := 131072 * (r.tileIndex.toNat + 1)) rfl (need := 1048576) rfl]
    simp [hop, hr]
  · have hr : v.toNat / 64 = 0 := by_contra fun hr => hbits (.inr ⟨by simp [hop], hr⟩)
    rw [check_of_legal (decodeCommandWord_of_fields (hcompose hop) (ushiftRight_eq_zero_of_div hr)),
      verdict_checkOperands _ _ (geometryTiles_eq r), verdict_checkRanges _ (sourceRange_compose r)
        (stop := 1048576 * r.tileCount.toNat) rfl (need := r.width.toNat * r.height.toNat * 4) rfl]
    simp [hop, hr]
  · have hr : v.toNat / 64 = 0 := by_contra fun hr => hbits (.inr ⟨by simp [hop], hr⟩)
    rw [check_of_legal (decodeCommandWord_of_fields (hdecode hop) (ushiftRight_eq_zero_of_div hr)),
      verdict_checkOperands _ _ (geometryTiles_eq r), verdict_checkRanges _ (sourceRange_decodeCompose r)
        (stop := 131072 * r.tileCount.toNat) rfl (need := r.width.toNat * r.height.toNat * 4) rfl]
    simp [hop, hr]

/-- Settles O28: each value is the table's. -/
theorem errorCodes : Obligations.ErrorCodes :=
  ⟨⟨rfl, rfl⟩, ⟨rfl, rfl⟩, ⟨rfl, rfl⟩, ⟨rfl, rfl⟩, ⟨rfl, rfl⟩, ⟨rfl, rfl⟩, ⟨rfl, rfl⟩, ⟨rfl, rfl⟩, ⟨rfl, rfl⟩,
    ⟨rfl, rfl⟩⟩

/-! ### Rejection and completion -/

/-- In IDLE a write to CMD is the decision of the check (R206, R207). -/
theorem execWrCmd_idle {s : State} (hs : s.engine = .idle) (v : Word) :
    exec (.wrCmd v) s = .next ((s.issue v).respond .done) := by
  simp [exec, execWrCmd, State.busy_of_idle hs]

/-- Settles O29: the decision on a failed check is the rejection. -/
theorem rejectionReportsTheError : Obligations.RejectionReportsTheError := by
  intro s v e hs he
  refine ⟨.done, ?_⟩
  rw [execWrCmd_idle hs, State.issue_of_error he]
  rfl

/-- A BUSY core holds no error (R33, R41). -/
theorem State.Inv.no_error_of_busy {s : State} (h : s.Inv) (hs : s.busy = true) :
    s.err = false ∧ s.errcode = 0 ∧ s.errdetail = 0 := by
  obtain ⟨-, herr, -⟩ := h.busyStatus hs
  exact ⟨herr, h.noError herr⟩

/-- Settles O36: the engine's step answers, and it is a completion, which leaves the error fields as they are. -/
theorem acceptedCommandAlwaysCompletes : Obligations.AcceptedCommandAlwaysCompletes := by
  intro s sn hinv hs
  obtain ⟨t, hx, -⟩ := engine_answers hinv hs
  obtain ⟨f, w, h', rfl, -⟩ := engine_completes hs hx
  exact ⟨_, hx, rfl, rfl, hinv.no_error_of_busy (State.busy_of_busy hs)⟩

/-! ### The interrupt output -/

theorem State.irq_of_not_done {s : State} (h : s.done = false) : s.irq = false := by
  rw [State.irq, h, Bool.and_false]

/-- Settles O56: BUSY, an acceptance and the write of 1 to STATUS bit 1 leave DONE at 0, a write to CTRL sets IRQ_EN from
its bit 0, and the two resets leave the reset values. -/
theorem interruptOutput : Obligations.InterruptOutput := by
  refine ⟨fun s => Bool.and_eq_true_iff, fun s hinv hs => State.irq_of_not_done (hinv.busyStatus hs).1,
    fun s t v hv hx => ?_, fun s t v hv hx => ?_, fun s t v hv hx => ?_, fun s t v c hs hc hx => ?_,
    fun s t hx => ?_⟩
  · injection hx with hx
    subst hx
    exact State.irq_of_not_done (by simp [State.writeStatus_eq, hv])
  · rw [execWrCtrl_of_bit31_clear s hv] at hx
    injection hx with hx
    subst hx
    rfl
  · rw [execWrCtrl_of_bit31_set s hv] at hx
    injection hx with hx
    subst hx
    exact (s.softReset_keeps.1.respond .done).irq
  · rw [execWrCmd_idle hs, State.issue_of_ok hc] at hx
    injection hx with hx
    subst hx
    exact State.irq_of_not_done rfl
  · injection hx with hx
    subst hx
    exact s.hardReset_atReset.irq

end Sys2Proof.Machine
end

section
/-! PROOFS. The resets (R270, R272, R273), the core that waits for a command (R274) and the writes that are discarded
while BUSY (R280). -/

namespace Sys2Proof.Machine

/-! ### Waiting -/

/-- In IDLE with nothing from the host the turn is the core's own, and it waits (R274). -/
theorem turn_waits {s : State} (hf : s.faults = []) (he : s.engine = .idle) (hh : s.host = []) : turn s = .move s := by
  unfold turn
  rw [hf, he, hh]

/-- Settles O13: the turn is to wait, in the same state. -/
theorem waitsInIdle : Obligations.WaitsInIdle := by
  intro s hf he hh
  rw [step_eq_outcome, turn_waits hf he hh]
  rfl

/-! ### The resets -/

/-- Settles O16: in either phase the next state is the core reset, which aborts nothing and writes no byte. -/
theorem hardResetStep : Obligations.HardResetStep := by
  intro s
  have hreset := s.hardReset_atReset
  exact ⟨s.hardReset, rfl, hreset, hreset.irq, rfl, rfl, rfl, rfl⟩

/-- In BUSY a soft reset keeps every byte outside the destination range of the running command (R273). -/
theorem State.softReset_sameOutside {s : State} {sn : Snapshot} (hs : s.engine = .busy sn) :
    Memory.SameOutside sn.dest s.mem s.softReset.mem := by
  intro a ha
  rw [State.softReset_busy hs, State.coreReset_mem, State.abort_mem]
  exact Memory.read_writeRange_outside ha

/-- Settles O18: the write is a soft reset, and its abort draws bytes in the destination range only. -/
theorem softResetWhileBusy : Obligations.SoftResetWhileBusy := by
  intro s sn v hs hv
  obtain ⟨hreset, hfaults, hhost, -⟩ := s.softReset_keeps
  exact ⟨s.softReset.respond .done, execWrCtrl_of_bit31_set s hv, hreset.respond .done, hreset.irq,
    State.softReset_sameOutside hs, hfaults, hhost⟩

/-! ### Writes while BUSY -/

/-- In BUSY an instruction that writes an operand register sets IGNWR instead (R205, R280). -/
theorem exists_discarded_of_writeOperand {s : State} {sn : Snapshot} (hs : s.engine = .busy sn) {i : Instr}
    {put : OperandRegs → OperandRegs} (h : exec i s = .next ((s.writeOperand put).respond .done)) :
    ∃ r, exec i s = .next { s with ignwr := true, resp := r } := by
  rw [State.writeOperand_busy hs] at h
  exact ⟨.done, h⟩

/-- In BUSY a write to CMD sets IGNWR instead of a decision (R206, R280). -/
theorem execWrCmd_busy {s : State} {sn : Snapshot} (hs : s.engine = .busy sn) (v : Word) :
    exec (.wrCmd v) s = .next (s.ignoreWrite.respond .done) := by
  rw [exec, execWrCmd, if_pos (State.busy_of_busy hs)]

/-- Settles O26: the first eight write an operand register, the ninth CMD. -/
theorem writesWhileBusyAreDiscarded : Obligations.WritesWhileBusyAreDiscarded := by
  intro s sn v i hs hi
  simp only [List.mem_cons, List.not_mem_nil, or_false] at hi
  rcases hi with rfl | rfl | rfl | rfl | rfl | rfl | rfl | rfl | rfl
  iterate 8 exact exists_discarded_of_writeOperand hs rfl
  exact ⟨.done, execWrCmd_busy hs v⟩

end Sys2Proof.Machine
end
